-- ==== Sys2Proof/Word.lean ====
section
/-!
DEFINITION. The word types of the do-core1 CORE block: the 16-bit unsigned value of the registers, the
instruction word and the memory address (spec R5, R7, R8, R36), the two field types of the instruction
word (R56), and the index of one of the eight registers (R17). Everything is unsigned (R8); bit 0 is
the least significant bit (R7).
-/

namespace Sys2Proof

/-- R5, R8, R36: a register, an address, a value moved to or from memory, or an instruction word. -/
abbrev Word := BitVec 16

/-- R56: the opcode field, bits 15..8 of the instruction word. -/
abbrev OpcodeByte := BitVec 8

/-- R56: an operand field, bits 7..4 or 3..0 of the instruction word, before the range check. -/
abbrev OperandField := BitVec 4

/-- R17, R59, R61: the index of a general register, 0..7: an operand that has passed the validator. -/
abbrev RegIdx := Fin 8

end Sys2Proof
end

