-- ==== Sys2Proof/Syntax.lean ====
section
/-!
DEFINITION. The instructions (one constructor per row of spec/opcode_table.json), the closed opcode
enumeration (R58), the three fields of an instruction word before they are checked (R56), and the three
ways a word can fail to decode (R62).
-/

namespace Sys2Proof

/-- R58: the closed enumeration of four opcodes. -/
inductive Opcode where
  | ld
  | st
  | add
  | xor
  deriving DecidableEq, Repr

/-- R62: a decoded instruction: an opcode and two register indices that have passed the validator.
What each operand names is R59's table. -/
inductive Instr where
  /-- R86: `op0` the destination, `op1` the register that holds the address. -/
  | ld (op0 op1 : RegIdx)
  /-- R87: `op0` the register that holds the address, `op1` the register that holds the value. -/
  | st (op0 op1 : RegIdx)
  /-- R90: `op0` the first addend and destination, `op1` the second addend. -/
  | add (op0 op1 : RegIdx)
  /-- R91: `op0` the first operand and destination, `op1` the second operand. -/
  | xor (op0 op1 : RegIdx)
  deriving DecidableEq, Repr

/-- The opcode of an instruction. -/
def Instr.opcode : Instr → Opcode
  | .ld _ _ => .ld
  | .st _ _ => .st
  | .add _ _ => .add
  | .xor _ _ => .xor

/-- R11: the first operand's register index. -/
def Instr.op0 : Instr → RegIdx
  | .ld n _ => n
  | .st n _ => n
  | .add n _ => n
  | .xor n _ => n

/-- R11: the second operand's register index. -/
def Instr.op1 : Instr → RegIdx
  | .ld _ m => m
  | .st _ m => m
  | .add _ m => m
  | .xor _ m => m

/-- R11, R56: the three fields of a 16-bit word as they stand in it, unchecked. -/
structure Fields where
  opc : OpcodeByte
  f0  : OperandField
  f1  : OperandField
  deriving DecidableEq, Repr

/-- R62: exactly one of three errors ends a decode. The payloads of the last two are the spec's own
choice (D11). -/
inductive DecodeError where
  /-- R97: the opcode byte is none of R58's four. -/
  | invalidOpCode (opc : OpcodeByte)
  /-- R98: the opcode is legal and f0 > 7. -/
  | op0OutOfRange (f0 : OperandField)
  /-- R99: the opcode is legal, f0 ≤ 7 and f1 > 7. -/
  | op1OutOfRange (f1 : OperandField)
  deriving DecidableEq, Repr

end Sys2Proof
end

