-- ==== Sys2Proof/WellFormed.lean ====
section
/-!
DEFINITION. When the three fields of a word are a legal instruction: the checks of R62, one predicate
each. A decoded `Instr` holds register indices 0..7 by its type, so it is the unchecked `Fields` that
can be ill-formed. The decoder (Decode.lean) runs the same checks in R105's order and names the first
that fails.
-/

namespace Sys2Proof

/-- R57, R58: the whole opcode byte is one of 0x00..0x03. -/
def Fields.opcodeLegal (f : Fields) : Bool := decide (f.opc.toNat ≤ 0x03)

/-- R60: f0 ≤ MAX_REGISTER_INDEX = 7. -/
def Fields.op0InRange (f : Fields) : Bool := decide (f.f0.toNat ≤ 7)

/-- R60: f1 ≤ MAX_REGISTER_INDEX = 7. -/
def Fields.op1InRange (f : Fields) : Bool := decide (f.f1.toNat ≤ 7)

/-- R62: the fields of one of the 256 words that decode (R65). -/
def Fields.wellFormed (f : Fields) : Bool := f.opcodeLegal && f.op0InRange && f.op1InRange

end Sys2Proof
end

