-- ==== Sys2Proof/Decode.lean ====
section
/-!
DEFINITION. The 16-bit instruction decoder and the operand-range validator (R55..R67), the encoder
(R70), the reader of opcode-table words, and the assembler text of an instruction (R68).
-/

namespace Sys2Proof

/-- R58: the encoding of each opcode. -/
def opcodeByte : Opcode → OpcodeByte
  | .ld => 0x00
  | .st => 0x01
  | .add => 0x02
  | .xor => 0x03

/-- R57, R58: the opcode byte is compared whole against the four encodings; every other byte selects
none. -/
def opcodeOfByte (b : OpcodeByte) : Option Opcode :=
  if b = 0x00 then some .ld
  else if b = 0x01 then some .st
  else if b = 0x02 then some .add
  else if b = 0x03 then some .xor
  else none

/-- R56: opc = w[15:8], f0 = w[7:4], f1 = w[3:0]. -/
def splitWord (w : Word) : Fields :=
  { opc := w.extractLsb' 8 8, f0 := w.extractLsb' 4 4, f1 := w.extractLsb' 0 4 }

/-- R60: the range check of one operand field: the register index, when it is at most 7. -/
def validateOperand (f : OperandField) : Option RegIdx :=
  if h : f.toNat < 8 then some ⟨f.toNat, h⟩ else none

/-- R62: the decoded instruction `{opcode, op0, op1}`. -/
def makeInstr (op : Opcode) (n m : RegIdx) : Instr :=
  match op with
  | .ld => .ld n m
  | .st => .st n m
  | .add => .add n m
  | .xor => .xor n m

/-- R62: the checks on the split word, in the order opcode, op0, op1 (R105). -/
def decodeFields (f : Fields) : Except DecodeError Instr :=
  match opcodeOfByte f.opc with
  | none => .error (.invalidOpCode f.opc)
  | some op =>
    match validateOperand f.f0 with
    | none => .error (.op0OutOfRange f.f0)
    | some n =>
      match validateOperand f.f1 with
      | none => .error (.op1OutOfRange f.f1)
      | some m => .ok (makeInstr op n m)

/-- R62: `Decode(w)`, a total function of the word alone. -/
def decode (w : Word) : Except DecodeError Instr := decodeFields (splitWord w)

/-- R70: `Encode(op, n, m) = (opc(op) << 8) | (n << 4) | m`. -/
def encodeParts (op : Opcode) (n m : RegIdx) : Word :=
  ((opcodeByte op).setWidth 16 <<< 8) ||| (BitVec.ofNat 16 n.val <<< 4) ||| BitVec.ofNat 16 m.val

/-- R70: the word of an instruction. -/
def encode (i : Instr) : Word := encodeParts i.opcode i.op0 i.op1

/-- The instruction word whose low `nbits` bits are those of `w`, numbered as the opcode table numbers
them (R7: bit 15 the most significant), with zeros above. The word reaches the block as one parallel
16-bit value, so no byte order enters (R47). -/
def tableWord (nbits w : Nat) : Word := BitVec.ofNat 16 (w % 2 ^ nbits)

/-- The instruction the decoder reads from an opcode-table word. No instruction is longer than 16 bits
(R55). -/
def decodeTableWord (nbits w : Nat) : Option Instr :=
  if nbits ≤ 16 then
    match decode (tableWord nbits w) with
    | .ok i => some i
    | .error _ => none
  else none

/-- R68: the source's mnemonics. -/
def mnemonic : Opcode → String
  | .ld => "LD"
  | .st => "ST"
  | .add => "ADD"
  | .xor => "XOR"

/-- R68: the assembler name of a register, `R0`..`R7`. -/
def registerName (r : RegIdx) : String := "R" ++ toString r.val

/-- R68: `MNEMONIC Rn, Rm`. There are no pseudo-instructions (R69). -/
def assemblerText (i : Instr) : String :=
  mnemonic i.opcode ++ " " ++ registerName i.op0 ++ ", " ++ registerName i.op1

end Sys2Proof
end

