-- ==== Sys2Proof/Config.lean ====
section
/-!
DEFINITION. The construction parameters of rule R6: MEM_ORG, SLOT_WIDTH, MEM_SLOTS and REG_RESET. The
spec asks a model to take them as arguments; the machine's state carries them in one field that only
construction writes (notes/assumptions/1.md). What each parameter means (legality, the width in bits,
the reset registers) is in Machine/Parameters.lean.
-/

namespace Sys2Proof

/-- R6 MEM_ORG: how memory is organised (R24 DENSE, R25 SPARSE). -/
inductive MemOrg where
  | dense
  | sparse
  deriving DecidableEq, Repr

/-- R6 SLOT_WIDTH: 8 or 16 bits per memory slot. -/
inductive SlotWidth where
  | bits8
  | bits16
  deriving DecidableEq, Repr

/-- R6 REG_RESET: the register file's initialisation policy (R19). -/
inductive RegReset where
  | zero
  | indexX16
  deriving DecidableEq, Repr

/-- R6: one engine's configuration, fixed at construction for the life of the engine. Illegal
combinations can be written down, because the spec has them presented and refused (R114). -/
structure Config where
  memOrg    : MemOrg
  slotWidth : SlotWidth
  memSlots  : Nat
  regReset  : RegReset
  deriving DecidableEq, Repr

/-- The configuration of `State.reset`: R6's defaults (DENSE, 16, ZERO). MEM_SLOTS has no default in
the spec (D3): 256, the test vectors' value, is a DESIGN CHOICE (unsafe, notes/assumptions/2.md); no
statement about the machine rests on it, since each holds for every legal configuration. -/
def Config.default : Config :=
  { memOrg := .dense, slotWidth := .bits16, memSlots := 256, regReset := .zero }

end Sys2Proof
end

