-- ==== Sys2Proof/Machine/Parameters.lean ====
section
/-!
DEFINITION. What the construction parameters mean: which configurations are legal (R6, R114), how many
bits a slot has (R6), and the register file's reset values (R19).
-/

namespace Sys2Proof.Machine

/-- R6, R114: MEM_SLOTS is in 1..65536 (DENSE only), and SPARSE has 16-bit slots. -/
def legalConfig (c : Config) : Bool :=
  match c.memOrg with
  | .dense => decide (1 ≤ c.memSlots) && decide (c.memSlots ≤ 65536)
  | .sparse => decide (c.slotWidth = .bits16)

/-- R6: SLOT_WIDTH in bits. -/
def slotBits : SlotWidth → Nat
  | .bits8 => 8
  | .bits16 => 16

/-- R19: the reset value of register i: 0x0000 (ZERO) or 16 × i (INDEX_X16). -/
def resetReg (p : RegReset) (i : RegIdx) : Word :=
  match p with
  | .zero => 0
  | .indexX16 => BitVec.ofNat 16 (16 * i.val)

/-- R19: the register file after reset, x[0] first. -/
def resetRegs (p : RegReset) : Vector Word 8 :=
  #v[resetReg p 0, resetReg p 1, resetReg p 2, resetReg p 3,
     resetReg p 4, resetReg p 5, resetReg p 6, resetReg p 7]

end Sys2Proof.Machine
end

