-- ==== Sys2Proof/Machine/State.lean ====
section
/-!
DEFINITION. The state of one engine with its host: the register file and the memory (R17, R24, R25:
the block's whole persistent state, R32), the configuration they were constructed with (R6), the
interface state of R71 and R116 (the phase behind `req_ready`, the held response behind `rsp_*`), and
the moves the host has still to make (R72). Also the closed error taxonomy (R96), the reasons a step
stops, and reset (R115, R116).
-/

namespace Sys2Proof.Machine

/-- R96: the closed list of eight errors a transaction can report, with their payloads. An error is an
outcome the machine reports and goes on from (R114), not a stop of the model. -/
inductive ErrorKind where
  /-- R97, code 1: raised by decode; the opcode byte. -/
  | invalidOpCode (opc : OpcodeByte)
  /-- R98, code 2: raised by decode; the offending field f0. -/
  | op0OutOfRange (f0 : OperandField)
  /-- R99, code 3: raised by decode; the offending field f1. -/
  | op1OutOfRange (f1 : OperandField)
  /-- R100, code 4: raised by ADD; both operands. -/
  | additionOverflow (a b : Word)
  /-- R101, code 5: raised by LD and ST in DENSE; the address. -/
  | addressOutOfRange (addr : Word)
  /-- R102, code 6: raised by ST in DENSE with 8-bit slots; the value. -/
  | valueOutOfRange (value : Word)
  /-- R103, code 7: raised by LD in SPARSE; the address. -/
  | memoryEmpty (addr : Word)
  /-- R104, code 8: reserved, never raised by any configuration. -/
  | stackOverflow (addr : Word)
  deriving DecidableEq, Repr

/-- R71, R96: the response to an accepted word: `Ok(())` or one error. -/
inductive Response where
  | ok
  | err (e : ErrorKind)
  deriving DecidableEq, Repr

/-- R76: the phases of one transaction. Between transactions the block is always Idle (R28); the two
other phases occur inside a step only. -/
inductive Phase where
  | idle
  | decoded
  | executed
  deriving DecidableEq, Repr

/-- What the host can do to the block (R31, R71, R72): the input side of the interface, one move at a
time, each made while the block is Idle. A host that presents a word while one is in flight has no move
(R121), and the inspection port, which changes no state, needs none (R112). -/
inductive HostMove where
  /-- R71: `req_valid` with the word on `req_word`; the block runs the transaction to its response. -/
  | word (w : Word)
  /-- C9: the host takes the held response, so `rsp_valid` falls (notes/assumptions/4.md). -/
  | takeResponse
  /-- R115: `rst` while the block is Idle: construction of a fresh engine with this configuration. -/
  | reset (c : Config)
  /-- R118: the word is accepted and `rst` is asserted while its transaction is in flight. -/
  | resetInFlight (w : Word) (c : Config)
  deriving DecidableEq, Repr

/-- R24, R25: memory as (address, slot value) pairs, addresses strictly rising. One entry is one slot,
the block's smallest addressable unit (R47: no 16-bit value is split into bytes). What an unlisted
address holds is `Memory.unlisted` in Ops.lean; the canonical form is `Memory.wf` there. -/
abbrev Memory := List (Nat × Word)

/-- One engine and its host. -/
structure State where
  /-- R6, R22: read-only constants fixed at construction; only construction writes this field. -/
  config : Config
  /-- R17: the register file, x[0]..x[7]. -/
  regs   : Vector Word 8
  /-- R24 (DENSE) or R25 (SPARSE, where the listed addresses are dom(Mem)): the memory. -/
  mem    : Memory
  /-- R76, R116: Idle between transactions; `req_ready` shows it. -/
  phase  : Phase
  /-- R71: the response to the last accepted word, while it is held on the interface. -/
  rsp    : Option Response
  /-- R72: the moves the host has still to make, the next one first. -/
  host   : List HostMove
  deriving DecidableEq, Repr

/-- Why the model stops without a next state. -/
inductive Fault where
  /-- Raised by `advance` on a state whose phase is not Idle: a transaction is in flight between two
  steps, which no step leaves behind, and there the host has no move (R121, I14 'stuck'). Safe: the
  model stops. -/
  | transactionInFlight
  deriving DecidableEq, Repr

/-- What the model gives no meaning. -/
inductive Refusal where
  /-- An arm of `exec` without a meaning. No arm raises it: every instruction has its meaning. Safe. -/
  | notModelled (mnemonic : String)
  /-- Raised by construction with, and by a step under, a configuration outside R6: "refused, not given
  a meaning" (R114). Safe: the model stops. -/
  | illegalConfiguration
  deriving DecidableEq, Repr

/-- R115, R116: the state after construction with configuration c: registers as R19, memory as R26 with
nothing listed, Idle and no response held; the host has no move to make yet. -/
def State.resetWith (c : Config) : State :=
  { config := c, regs := resetRegs c.regReset, mem := [], phase := .idle, rsp := none, host := [] }

/-- The machine right after reset with R6's default parameters (MEM_SLOTS: notes/assumptions/2.md). -/
def State.reset : State := State.resetWith Config.default

end Sys2Proof.Machine
end

