-- ==== Sys2Proof/Machine/Flags.lean ====
section
/-!
DEFINITION. The block has no status flags (R21). The one flag-like computation is the overflow verdict
of the checked addition (R89), which is reported as an error and stored nowhere.
-/

namespace Sys2Proof.Machine

/-- R89: the 17-bit integer sum, 0..0x1FFFE. -/
def addSum (a b : Word) : Nat := a.toNat + b.toNat

/-- R89, R90: overflow exactly when the sum exceeds 0xFFFF. -/
def addOverflows (a b : Word) : Bool := decide (addSum a b > 0xFFFF)

end Sys2Proof.Machine
end

