-- ==== Sys2Proof/Machine/Ops.lean ====
section
/-!
DEFINITION. The named operations of the machine: the register file's read and write (R77, R79), the
memory in its canonical form with the address checker, the value checker and the checked read and write
(R39..R44), the end of a transaction (its commit, R79 and R46, or its error, the block's only trap
entry, R107), and the interface's outputs (R71, R84, R96, R112). There is no return from an error: the
block is Idle again at once (R108).
-/

namespace Sys2Proof.Machine

/-! ### The register file -/

/-- R77: the content of register r. -/
def State.reg (s : State) (r : RegIdx) : Word := s.regs[r.val]

/-- R79: the single write port. -/
def State.writeReg (s : State) (r : RegIdx) (v : Word) : State :=
  { s with regs := s.regs.set r.val v }

/-! ### Memory as data -/

/-- The value listed for an address. -/
def Memory.lookup : Memory → Nat → Option Word
  | [], _ => none
  | (k, v) :: m, a => if k = a then some v else Memory.lookup m a

/-- List a value for an address, in its place in the rising order. -/
def Memory.put : Memory → Nat → Word → Memory
  | [], a, v => [(a, v)]
  | (k, u) :: m, a, v =>
    if a < k then (a, v) :: (k, u) :: m
    else if k = a then (a, v) :: m
    else (k, u) :: Memory.put m a v

/-- List nothing for an address. -/
def Memory.unlist (m : Memory) (a : Nat) : Memory := m.filter (fun cell => cell.1 ≠ a)

/-- What an unlisted address holds: in DENSE the reset value 0, in SPARSE no slot (R26). -/
def Memory.unlisted (c : Config) : Option Word :=
  match c.memOrg with
  | .dense => some 0
  | .sparse => none

/-- Write a slot, keeping the canonical form: the value an unlisted address holds is not listed. -/
def Memory.store (c : Config) (m : Memory) (a : Nat) (v : Word) : Memory :=
  if Memory.unlisted c = some v then Memory.unlist m a else Memory.put m a v

/-- R24, R25: whether one listed slot can stand in a memory of this configuration: its address exists,
its value fits the slot, and it is not what an unlisted address holds. -/
def cellLegal (c : Config) (cell : Nat × Word) : Bool :=
  match c.memOrg with
  | .dense => decide (cell.1 < c.memSlots) && decide (cell.2.toNat < 2 ^ slotBits c.slotWidth)
      && decide (cell.2 ≠ 0)
  | .sparse => decide (cell.1 < 65536)

/-- The canonical form: addresses strictly rising, every listed slot legal. -/
def Memory.wf (c : Config) (m : Memory) : Bool :=
  decide (m.Pairwise (fun p q => p.1 < q.1)) && m.all (cellLegal c)

/-! ### The address checker, the value checker, and the checked read and write -/

/-- R40, R41: `v[SLOT_WIDTH-1:0]`, zero-extended to 16 bits. In SPARSE a slot is 16 bits (R25). -/
def slotPart (c : Config) (v : Word) : Word :=
  match c.memOrg with
  | .dense => (v.setWidth (slotBits c.slotWidth)).setWidth 16
  | .sparse => v

/-- R39: the memory address checker: the error an access at this address meets, if any. -/
def addressCheck (c : Config) (a : Word) : Option ErrorKind :=
  match c.memOrg with
  | .dense => if a.toNat < c.memSlots then none else some (.addressOutOfRange a)
  | .sparse => none

/-- R44: the value-range checker of the DENSE write. -/
def valueCheck (c : Config) (v : Word) : Option ErrorKind :=
  match c.memOrg with
  | .dense => if v.toNat < 2 ^ slotBits c.slotWidth then none else some (.valueOutOfRange v)
  | .sparse => none

/-- The content of the slot at an address that the address checker passes, zero-extended to 16 bits;
none in SPARSE at an address outside dom(Mem) (R25, R26). -/
def Memory.content (c : Config) (m : Memory) (a : Word) : Option Word :=
  ((Memory.lookup m a.toNat).or (Memory.unlisted c)).map (slotPart c)

/-- R40 (DENSE), R42 (SPARSE): `MemRead(a, 1)`. -/
def memRead (c : Config) (m : Memory) (a : Word) : Except ErrorKind Word :=
  match addressCheck c a with
  | some e => .error e
  | none =>
    match Memory.content c m a with
    | some v => .ok v
    | none => .error (.memoryEmpty a)

/-- R41 (DENSE: the address check before the value check), R43 (SPARSE): `MemWrite(a, 1, v)`, the memory
after the write. -/
def memWrite (c : Config) (m : Memory) (a v : Word) : Except ErrorKind Memory :=
  match addressCheck c a with
  | some e => .error e
  | none =>
    match valueCheck c v with
    | some e => .error e
    | none => .ok (Memory.store c m a.toNat (slotPart c v))

/-- The slot at an address, zero-extended to 16 bits; none where there is no slot: in DENSE at and above
MEM_SLOTS (R37), in SPARSE outside dom(Mem) (R25). This is the model's read of one memory location. -/
def State.slot (s : State) (a : Word) : Option Word :=
  match addressCheck s.config a with
  | some _ => none
  | none => Memory.content s.config s.mem a

/-! ### The course of a transaction -/

/-- R71, R76: a word is accepted: the block leaves Idle, and the response to the word before it is gone
from the interface. -/
def State.accept (s : State) : State := { s with phase := .decoded, rsp := none }

/-- R76: Decoded → Executed. -/
def State.execute (s : State) : State := { s with phase := .executed }

/-- R71, R76: the transaction ends with its response, and the block is Idle again. -/
def State.respond (s : State) (r : Response) : State := { s with phase := .idle, rsp := some r }

/-- R107: what an error does, whichever check raised it: it is reported to the host, nothing is saved
and no register or memory slot changes (R75); the block is Idle and goes on (R108). -/
def raise (e : ErrorKind) (s : State) : Host.Outcome State Fault Refusal :=
  .next (s.respond (.err e))

/-- R79: a successful LD, ADD or XOR writes its one register and returns Ok (R84). -/
def commitReg (r : RegIdx) (v : Word) (s : State) : Host.Outcome State Fault Refusal :=
  .next ((s.writeReg r v).respond .ok)

/-- R46: a successful ST leaves the written memory and returns Ok (R84); it writes no register (R79). -/
def commitMem (m : Memory) (s : State) : Host.Outcome State Fault Refusal :=
  .next (State.respond { s with mem := m } .ok)

/-- R62, R96: a decode error as a member of the error taxonomy. -/
def decodeErrorKind : DecodeError → ErrorKind
  | .invalidOpCode opc => .invalidOpCode opc
  | .op0OutOfRange f0 => .op0OutOfRange f0
  | .op1OutOfRange f1 => .op1OutOfRange f1

/-! ### The interface's outputs -/

/-- R96, D10: the numeric code of an error. -/
def errorCode : ErrorKind → BitVec 4
  | .invalidOpCode _ => 1
  | .op0OutOfRange _ => 2
  | .op1OutOfRange _ => 3
  | .additionOverflow _ _ => 4
  | .addressOutOfRange _ => 5
  | .valueOutOfRange _ => 6
  | .memoryEmpty _ => 7
  | .stackOverflow _ => 8

/-- R96, D11: the first payload of an error. R96 gives the never-raised StackOverflow none; its source
argument is shown (DEDUCED from D11, notes/assumptions/5.md). -/
def errorInfo0 : ErrorKind → Word
  | .invalidOpCode opc => opc.setWidth 16
  | .op0OutOfRange f0 => f0.setWidth 16
  | .op1OutOfRange f1 => f1.setWidth 16
  | .additionOverflow a _ => a
  | .addressOutOfRange addr => addr
  | .valueOutOfRange value => value
  | .memoryEmpty addr => addr
  | .stackOverflow addr => addr

/-- R96, D11: the second payload of an error; 0 when unused. -/
def errorInfo1 : ErrorKind → Word
  | .invalidOpCode _ => 0
  | .op0OutOfRange _ => 0
  | .op1OutOfRange _ => 0
  | .additionOverflow _ b => b
  | .addressOutOfRange _ => 0
  | .valueOutOfRange _ => 0
  | .memoryEmpty _ => 0
  | .stackOverflow _ => 0

/-- R71 `rsp_err`: 0 = Ok, 1 = an error. -/
def responseErr : Response → Bool
  | .ok => false
  | .err _ => true

/-- R71 `rsp_code`: 0 when `rsp_err` = 0 (R84). -/
def responseCode : Response → BitVec 4
  | .ok => 0
  | .err e => errorCode e

/-- R71 `rsp_info0` (R84: 0 on success). -/
def responseInfo0 : Response → Word
  | .ok => 0
  | .err e => errorInfo0 e

/-- R71 `rsp_info1` (R84: 0 on success). -/
def responseInfo1 : Response → Word
  | .ok => 0
  | .err e => errorInfo1 e

/-- R71 `req_ready`: 1 when the block is Idle and accepts a word. -/
def State.reqReady (s : State) : Bool := decide (s.phase = .idle)

/-- R71 `rsp_valid`: 1 when the response to the last accepted word is present. -/
def State.rspValid (s : State) : Bool := s.rsp.isSome

/-- R71 `rsp_err`, while `rsp_valid` = 1; the spec gives the line no value otherwise. -/
def State.rspErr (s : State) : Option Bool := s.rsp.map responseErr

/-- R71 `rsp_code`, while `rsp_valid` = 1. -/
def State.rspCode (s : State) : Option (BitVec 4) := s.rsp.map responseCode

/-- R71 `rsp_info0`, while `rsp_valid` = 1. -/
def State.rspInfo0 (s : State) : Option Word := s.rsp.map responseInfo0

/-- R71 `rsp_info1`, while `rsp_valid` = 1. -/
def State.rspInfo1 (s : State) : Option Word := s.rsp.map responseInfo1

/-- R112 `insp_reg_data` for `insp_reg_sel`: defined only while the block is Idle (R124). -/
def State.inspRegData (s : State) (sel : BitVec 3) : Option Word :=
  if s.phase = .idle then some (s.reg sel.toFin) else none

/-- R112 `insp_mem_present` for `insp_mem_addr`: defined only while the block is Idle (R124). -/
def State.inspMemPresent (s : State) (a : Word) : Option Bool :=
  if s.phase = .idle then some (s.slot a).isSome else none

/-- R112 `insp_mem_data` for `insp_mem_addr`: 0 when there is no slot; defined only while Idle (R124). -/
def State.inspMemData (s : State) (a : Word) : Option Word :=
  if s.phase = .idle then some ((s.slot a).getD 0) else none

end Sys2Proof.Machine
end

