-- ==== Sys2Proof/Machine/Operands.lean ====
section
/-!
DEFINITION. The operand forms: the two selections of the register-file multiplexer (R77), and the roles
LD and ST give them (R59, R85, R88: register indirect, no offset, is the one addressing mode; no operand
is an immediate, R61). Each reads the state before the transaction's write (R78).
-/

namespace Sys2Proof.Machine

/-- R77: port A of the register-file multiplexer. -/
def portA (s : State) (op0 : RegIdx) : Word := s.reg op0

/-- R77: port B of the register-file multiplexer. -/
def portB (s : State) (op1 : RegIdx) : Word := s.reg op1

/-- R86, R88: LD's effective address, x[op1]. -/
def loadAddress (s : State) (op1 : RegIdx) : Word := portB s op1

/-- R87, R88: ST's effective address, x[op0]. -/
def storeAddress (s : State) (op0 : RegIdx) : Word := portA s op0

/-- R87: the value ST stores, x[op1]. -/
def storeValue (s : State) (op1 : RegIdx) : Word := portB s op1

end Sys2Proof.Machine
end

