-- ==== Sys2Proof/Machine/Alu.lean ====
section
/-!
DEFINITION. The 16-bit ALU (R89) and its two instructions, ADD and XOR (42_alu.md).
-/

namespace Sys2Proof.Machine

/-- R89, R90: the checked unsigned addition. -/
def aluAdd (a b : Word) : Except ErrorKind Word :=
  if addOverflows a b then .error (.additionOverflow a b) else .ok (BitVec.ofNat 16 (addSum a b))

/-- R89, R91: the bitwise exclusive-or; it never reports overflow. -/
def aluXor (a b : Word) : Word := a ^^^ b

/-- R90: ADD. -/
def execAdd (op0 op1 : RegIdx) (s : State) : Host.Outcome State Fault Refusal :=
  match aluAdd (portA s op0) (portB s op1) with
  | .error e => raise e s
  | .ok v => commitReg op0 v s

/-- R91: XOR. -/
def execXor (op0 op1 : RegIdx) (s : State) : Host.Outcome State Fault Refusal :=
  commitReg op0 (aluXor (portA s op0) (portB s op1)) s

end Sys2Proof.Machine
end

