-- ==== Sys2Proof/Machine/LoadStore.lean ====
section
/-!
DEFINITION. LD and ST (41_load_store.md).
-/

namespace Sys2Proof.Machine

/-- R86: LD. -/
def execLd (op0 op1 : RegIdx) (s : State) : Host.Outcome State Fault Refusal :=
  match memRead s.config s.mem (loadAddress s op1) with
  | .error e => raise e s
  | .ok v => commitReg op0 v s

/-- R87: ST. -/
def execSt (op0 op1 : RegIdx) (s : State) : Host.Outcome State Fault Refusal :=
  match memWrite s.config s.mem (storeAddress s op0) (storeValue s op1) with
  | .error e => raise e s
  | .ok m => commitMem m s

end Sys2Proof.Machine
end

