-- ==== Sys2Proof/Machine/Dispatch.lean ====
section
/-!
DEFINITION. R73's dispatch on the decoded opcode: one arm per instruction.
-/

namespace Sys2Proof.Machine

def exec (i : Instr) (s : State) : Host.Outcome State Fault Refusal :=
  match i with
  | .ld op0 op1 => Sys2Proof.Machine.execLd op0 op1 s
  | .st op0 op1 => Sys2Proof.Machine.execSt op0 op1 s
  | .add op0 op1 => Sys2Proof.Machine.execAdd op0 op1 s
  | .xor op0 op1 => Sys2Proof.Machine.execXor op0 op1 s

end Sys2Proof.Machine
end

