-- ==== Sys2Proof/Machine/Engine.lean ====
section
/-!
DEFINITION. The execution engine around `exec`: one transaction (R73), construction (R115), what each
move of the host does, and one step of the machine. A step is one move of the host, made while the
block is Idle; for a word that is one whole transaction, from Idle to Idle (R49, R120).
-/

namespace Sys2Proof.Machine

/-- R73, R74: `process(w)`: decode, then dispatch. A decode error ends the transaction in Decoded,
without reaching Executed (R76). -/
def process (w : Word) (s : State) : Host.Outcome State Fault Refusal :=
  match decode w with
  | .error e => raise (decodeErrorKind e) s.accept
  | .ok i => exec i s.accept.execute

/-- R72: a program is a finite sequence of words; its meaning is the composition of their transactions,
in order. -/
def processAll : List Word → State → Host.Outcome State Fault Refusal
  | [], s => .next s
  | w :: ws, s =>
    match process w s with
    | .next t => processAll ws t
    | .fault r => .fault r
    | .refused r => .refused r

/-- R115: construction of a fresh engine: nothing of the old one survives. The moves the host has still
to make are the host's. A configuration outside R6 is refused (R114). -/
def construct (c : Config) (s : State) : Host.Outcome State Fault Refusal :=
  if legalConfig c then .next { State.resetWith c with host := s.host }
  else .refused .illegalConfiguration

/-- What one move of the host does to the block. -/
def hostMove (mv : HostMove) (s : State) : Host.Outcome State Fault Refusal :=
  match mv with
  | .word w => process w s
  | .takeResponse => .next { s with rsp := none }
  | .reset c => construct c s
  -- R118: the accepted transaction is abandoned: it commits nothing and produces no response
  | .resetInFlight _ c => construct c s.accept

/-- One step: the host makes its next move, and with none to make the block waits in Idle (R117). -/
def advance (s : State) : Host.Outcome State Fault Refusal :=
  if legalConfig s.config then
    match s.phase with
    | .idle =>
      match s.host with
      | [] => .next s
      | mv :: rest => hostMove mv { s with host := rest }
    | .decoded => .fault .transactionInFlight
    | .executed => .fault .transactionInFlight
  else .refused .illegalConfiguration

/-- The host presents this word as its very next move (R72); presenting needs the block Idle (R121). -/
def State.presentNext (s : State) (w : Word) : State :=
  { s with phase := .idle, host := .word w :: s.host }

end Sys2Proof.Machine
end

