-- ==== Sys2Proof/Machine/Step.lean ====
section
/-!
DEFINITION. The machine's step, and how an instruction is placed before it: as the host's next move,
since the block has no instruction memory and no program counter (R20, R35).
-/

namespace Sys2Proof.Machine

/-- One step of the machine. -/
def step (s : State) : Host.Outcome State Fault Refusal := advance s

/-- s with the opcode-table word as the word the host presents next. -/
def State.withFetchWord (s : State) (nbits w : Nat) : State := s.presentNext (tableWord nbits w)

end Sys2Proof.Machine
end

