-- ==== Sys2Proof/Safety.lean ====
section
/-!
DEFINITION. The terms the statements are made in: the machine's invariant (`State.Sound`), the all-zero
invariant of R95, what a transaction leaves unchanged (three frames: one register written, one slot
written, nothing committed), and the last store to an address in a run (R51).
-/

namespace Sys2Proof.Machine

/-- R96..R104, R106: the errors a configuration can report, with the payloads they can carry. -/
def errorPossible (c : Config) : ErrorKind → Prop
  | .invalidOpCode opc => 0x03 < opc.toNat
  | .op0OutOfRange f0 => 7 < f0.toNat
  | .op1OutOfRange f1 => 7 < f1.toNat
  | .additionOverflow a b => 0xFFFF < a.toNat + b.toNat
  | .addressOutOfRange addr => c.memOrg = .dense ∧ c.memSlots ≤ addr.toNat
  | .valueOutOfRange value => c.memOrg = .dense ∧ c.slotWidth = .bits8 ∧ 0xFF < value.toNat
  | .memoryEmpty _ => c.memOrg = .sparse
  | .stackOverflow _ => False

/-- The invariant of a machine between transactions: the configuration is legal (R6, R114), memory is
in canonical form and every slot exists and fits its width (R24, R25), the block is Idle (R28), and a
response still held reports only an error this configuration can raise (R104, R106). -/
structure State.Sound (s : State) : Prop where
  legal    : legalConfig s.config = true
  memory   : Memory.wf s.config s.mem = true
  idle     : s.phase = .idle
  response : ∀ e, s.rsp = some (.err e) → errorPossible s.config e

/-- R95's scope: a construction the host makes is DENSE with REG_RESET = ZERO. -/
def HostMove.denseZero : HostMove → Prop
  | .word _ => True
  | .takeResponse => True
  | .reset c => c.memOrg = .dense ∧ c.regReset = .zero
  | .resetInFlight _ c => c.memOrg = .dense ∧ c.regReset = .zero

/-- R95: the errors of decode, the only ones an all-zero state can produce. -/
def ErrorKind.fromDecode : ErrorKind → Prop
  | .invalidOpCode _ => True
  | .op0OutOfRange _ => True
  | .op1OutOfRange _ => True
  | .additionOverflow _ _ => False
  | .addressOutOfRange _ => False
  | .valueOutOfRange _ => False
  | .memoryEmpty _ => False
  | .stackOverflow _ => False

/-- R95: a DENSE state in which every register is 0 and every slot is 0, whose held response reports
nothing but a decode error, and whose host constructs only DENSE engines with REG_RESET = ZERO. -/
structure State.AllZero (s : State) : Prop where
  legal     : legalConfig s.config = true
  dense     : s.config.memOrg = .dense
  registers : ∀ r, s.reg r = 0
  slots     : ∀ a : Word, a.toNat < s.config.memSlots → s.slot a = some 0
  response  : ∀ e, s.rsp = some (.err e) → e.fromDecode
  moves     : ∀ mv ∈ s.host, mv.denseZero

/-- R79, R80: from s to t a transaction wrote register r, and nothing else, and answered Ok. -/
structure WritesOnlyReg (s t : State) (r : RegIdx) (v : Word) : Prop where
  written  : t.reg r = v
  others   : ∀ q, q ≠ r → t.reg q = s.reg q
  memory   : ∀ a, t.slot a = s.slot a
  config   : t.config = s.config
  response : t.rsp = some .ok
  idle     : t.phase = .idle
  host     : t.host = s.host

/-- R46, R80: from s to t a transaction wrote the slot at address a, and nothing else, and answered Ok. -/
structure WritesOnlySlot (s t : State) (a v : Word) : Prop where
  written   : t.slot a = some v
  others    : ∀ b, b ≠ a → t.slot b = s.slot b
  registers : ∀ q, t.reg q = s.reg q
  config    : t.config = s.config
  response  : t.rsp = some .ok
  idle      : t.phase = .idle
  host      : t.host = s.host

/-- R75, R107: from s to t a transaction reported error e and committed nothing. -/
structure CommitsNothing (s t : State) (e : ErrorKind) : Prop where
  registers : ∀ q, t.reg q = s.reg q
  memory    : ∀ a, t.slot a = s.slot a
  config    : t.config = s.config
  response  : t.rsp = some (.err e)
  idle      : t.phase = .idle
  host      : t.host = s.host

/-- The value a word stored at address a, when it is an ST to that address that answered Ok. -/
def storedAt (a w : Word) (s t : State) : Option Word :=
  match decode w with
  | .ok (.st n m) => if t.rsp = some .ok ∧ s.reg n = a then some (s.reg m) else none
  | .ok (.ld _ _) => none
  | .ok (.add _ _) => none
  | .ok (.xor _ _) => none
  | .error _ => none

/-- R51: the value of the most recent successful store to address a in a run of these words. -/
def lastStored (a : Word) : List Word → State → Option Word
  | [], _ => none
  | w :: ws, s =>
    match process w s with
    | .next t => (lastStored a ws t).or (storedAt a w s t)
    | .fault _ => none
    | .refused _ => none

end Sys2Proof.Machine
end

