-- ==== Sys2Proof/Certificates/Slice0/Obligations.lean ====
section
/-!
DEFINITION. The statements for the provers. Each docstring names the rules of spec/ it formalises; where
one rests on a choice, it names the log entry (a choice of the model) or the row D<n> of
92_eei_decisions.md (a choice of the spec, none of the source's: notes/assumptions/10.md).
-/

open Sys2Proof Sys2Proof.Machine

/-! ### Encoding -/

/-- The source's worked decodes S1..S6 and the vectors D1, D9, D11, D13, D14, D17, D20 of
95_test_vectors.md, words written out there. -/
def Obligations.WordsOfTheSpecDecode : Prop :=
  decode 0x0201 = .ok (.add 0 1) ∧ decode 0x0001 = .ok (.ld 0 1) ∧
  decode 0x0323 = .ok (.xor 2 3) ∧ decode 0x0150 = .ok (.st 5 0) ∧
  decode 0x0000 = .ok (.ld 0 0) ∧
  decode 0x0291 = .error (.op0OutOfRange 9) ∧ decode 0x020A = .error (.op1OutOfRange 10) ∧
  decode 0x0008 = .error (.op1OutOfRange 8) ∧ decode 0x0288 = .error (.op0OutOfRange 8) ∧
  decode 0x0400 = .error (.invalidOpCode 0x04) ∧ decode 0x0480 = .error (.invalidOpCode 0x04) ∧
  decode 0x1000 = .error (.invalidOpCode 0x10) ∧ decode 0xFFFF = .error (.invalidOpCode 0xFF)

/-- R70, with the encoder given by its formula: every instruction is the decoding of its word, and every
word that decodes is the encoding of its instruction. -/
def Obligations.EncodeAndDecodeAgree : Prop :=
  (∀ i, (encode i).toNat
      = 256 * (match i.opcode with | .ld => 0x00 | .st => 0x01 | .add => 0x02 | .xor => 0x03)
        + 16 * i.op0.val + i.op1.val) ∧
  (∀ i, decode (encode i) = .ok i) ∧
  (∀ w i, decode w = .ok i → encode i = w)

/-- R62 on every word, as its fields opc ‖ f0 ‖ f1 (R56): the opcode check, then op0, then op1, each
failing with its own error; otherwise the opcode and the two indices. That the last two errors carry the
offending field is the spec's choice, D11. -/
def Obligations.DecodeReportsTheFirstFailedCheck : Prop :=
  ∀ (opc : OpcodeByte) (f0 f1 : OperandField) (w : Word),
    w.toNat = opc.toNat * 256 + f0.toNat * 16 + f1.toNat →
    (3 < opc.toNat → decode w = .error (.invalidOpCode opc)) ∧
    (opc.toNat ≤ 3 → 7 < f0.toNat → decode w = .error (.op0OutOfRange f0)) ∧
    (opc.toNat ≤ 3 → f0.toNat ≤ 7 → 7 < f1.toNat → decode w = .error (.op1OutOfRange f1)) ∧
    (opc.toNat ≤ 3 → f0.toNat ≤ 7 → f1.toNat ≤ 7 →
      ∃ i, decode w = .ok i ∧ i.op0.val = f0.toNat ∧ i.op1.val = f1.toNat ∧
        (i.opcode = .ld ↔ opc = 0x00) ∧ (i.opcode = .st ↔ opc = 0x01) ∧
        (i.opcode = .add ↔ opc = 0x02) ∧ (i.opcode = .xor ↔ opc = 0x03))

/-- R63, R64: the words that fail decode, by their high byte and their two operand fields, whatever
their other bits hold, and how many words fail in each of the three ways. -/
def Obligations.IllegalWordsFailDecode : Prop :=
  (∀ w : Word, (∃ b, decode w = .error (.invalidOpCode b)) ↔ 0x04 ≤ w.toNat / 256) ∧
  (∀ (w : Word) b, decode w = .error (.invalidOpCode b) → b.toNat = w.toNat / 256) ∧
  (∀ w : Word, (∃ f, decode w = .error (.op0OutOfRange f)) ↔
    w.toNat / 256 ≤ 0x03 ∧ 8 ≤ w.toNat / 16 % 16) ∧
  (∀ w : Word, (∃ f, decode w = .error (.op1OutOfRange f)) ↔
    w.toNat / 256 ≤ 0x03 ∧ w.toNat / 16 % 16 ≤ 7 ∧ 8 ≤ w.toNat % 16) ∧
  Set.ncard {b : OpcodeByte | opcodeOfByte b = none} = 252 ∧
  Set.ncard {w : Word | ∃ b, decode w = .error (.invalidOpCode b)} = 64512 ∧
  Set.ncard {w : Word | ∃ f, decode w = .error (.op0OutOfRange f)} = 512 ∧
  Set.ncard {w : Word | ∃ f, decode w = .error (.op1OutOfRange f)} = 256

/-- R65: exactly 256 words decode, and which: by the rule's mask, and by its three fields of bits. -/
def Obligations.DecodableWordsAreTheMaskedWords : Prop :=
  Set.ncard {w : Word | ∃ i, decode w = .ok i} = 256 ∧
  (∀ w : Word, (∃ i, decode w = .ok i) ↔ w &&& 0xFC88 = 0x0000) ∧
  (∀ w : Word, (∃ i, decode w = .ok i) ↔
    w.extractLsb' 10 6 = 0 ∧ w.getLsbD 7 = false ∧ w.getLsbD 3 = false)

/-- The match and mask of each row of opcode_table.json select exactly the words that decode to the
row's instruction (R86, R87, R90, R91: match and mask 0xFF88). -/
def Obligations.OpcodeTableRowsSelectTheirInstruction : Prop :=
  ∀ w : Word,
    (w &&& 0xFF88 = 0x0000 ↔ ∃ n m, decode w = .ok (.ld n m)) ∧
    (w &&& 0xFF88 = 0x0100 ↔ ∃ n m, decode w = .ok (.st n m)) ∧
    (w &&& 0xFF88 = 0x0200 ↔ ∃ n m, decode w = .ok (.add n m)) ∧
    (w &&& 0xFF88 = 0x0300 ↔ ∃ n m, decode w = .ok (.xor n m))

/-- R68's four examples. -/
def Obligations.AssemblerTextOfTheExamples : Prop :=
  (decode 0x0201).map assemblerText = .ok "ADD R0, R1" ∧
  (decode 0x0001).map assemblerText = .ok "LD R0, R1" ∧
  (decode 0x0150).map assemblerText = .ok "ST R5, R0" ∧
  (decode 0x0323).map assemblerText = .ok "XOR R2, R3"

/-! ### The four instructions -/

/-- R86 with R40: in DENSE, LD from an address below MEM_SLOTS completes and writes op0, and nothing
else, with the slot at x[op1] (0 when nothing is listed there), zero-extended from SLOT_WIDTH bits. Register
operands and their roles in LD and ST, here and below, are the spec's choice, D4 and D5. -/
def Obligations.LoadFromDenseMemory : Prop :=
  ∀ (s : State) (d a : RegIdx), s.config.memOrg = .dense →
    (loadAddress s a).toNat < s.config.memSlots →
    ∃ t, exec (.ld d a) s = .next t ∧
      WritesOnlyReg s t d
        (match s.config.slotWidth with
          | .bits16 => (Memory.lookup s.mem (s.reg a).toNat).getD 0
          | .bits8 => (((Memory.lookup s.mem (s.reg a).toNat).getD 0).setWidth 8).setWidth 16)

/-- R86 with R42: in SPARSE, LD from a stored address completes and writes op0, and nothing else, with
the value there; from an address outside dom(Mem) it reports MemoryEmpty and commits nothing. -/
def Obligations.LoadFromSparseMemory : Prop :=
  ∀ (s : State) (d a : RegIdx), s.config.memOrg = .sparse →
    (∀ v, Memory.lookup s.mem (s.reg a).toNat = some v →
      ∃ t, exec (.ld d a) s = .next t ∧ WritesOnlyReg s t d v) ∧
    (Memory.lookup s.mem (s.reg a).toNat = none →
      ∃ t, exec (.ld d a) s = .next t ∧ CommitsNothing s t (.memoryEmpty (s.reg a)) ∧ t.mem = s.mem)

/-- R87 with R41 and R43: ST completes when the address is in range and the value fits the slot (both
always so in SPARSE), and stores x[op1] in the slot at x[op0] and changes nothing else. -/
def Obligations.StoreWritesTheAddressedSlot : Prop :=
  ∀ (s : State) (a v : RegIdx),
    (s.config.memOrg = .dense → (s.reg a).toNat < s.config.memSlots) →
    (s.config.memOrg = .dense → s.config.slotWidth = .bits8 → (s.reg v).toNat ≤ 0xFF) →
    ∃ t, exec (.st a v) s = .next t ∧ WritesOnlySlot s t (storeAddress s a) (storeValue s v)

/-- R87, R41, R44, R105: what stops a DENSE ST: an address at or above MEM_SLOTS, whatever the value;
then, with 8-bit slots, a value above 0xFF (the order of the two is the spec's choice, D12). Neither
commits anything. -/
def Obligations.DenseStoreFailures : Prop :=
  ∀ (s : State) (a v : RegIdx), s.config.memOrg = .dense →
    (s.config.memSlots ≤ (s.reg a).toNat →
      ∃ t, exec (.st a v) s = .next t ∧ CommitsNothing s t (.addressOutOfRange (s.reg a))) ∧
    ((s.reg a).toNat < s.config.memSlots → s.config.slotWidth = .bits8 → 0xFF < (s.reg v).toNat →
      ∃ t, exec (.st a v) s = .next t ∧ CommitsNothing s t (.valueOutOfRange (s.reg v)))

/-- R39: in DENSE an access, a load or a store alike, fails with AddressOutOfRange exactly when its
address is at or above MEM_SLOTS; in SPARSE a store passes at every address, and a load is tested for
membership in dom(Mem) and nothing else. -/
def Obligations.AddressCheckBoundsEveryAccess : Prop :=
  ∀ (s t : State) (i : Instr) (a : Word),
    (i.opcode = .ld ∧ a = loadAddress s i.op1) ∨ (i.opcode = .st ∧ a = storeAddress s i.op0) →
    exec i s = .next t →
    (s.config.memOrg = .dense →
      (a.toNat < s.config.memSlots ↔ t.rsp ≠ some (.err (.addressOutOfRange a)))) ∧
    (s.config.memOrg = .sparse → i.opcode = .st → t.rsp = some .ok) ∧
    (s.config.memOrg = .sparse → i.opcode = .ld →
      (t.rsp = some .ok ↔ ∃ v, Memory.lookup s.mem a.toNat = some v))

/-- R44: the value checker of the DENSE write, on ST at an address in range: it passes exactly a value
below 2^SLOT_WIDTH, so every value with 16-bit slots and 0x0000..0x00FF with 8-bit slots; a value it
fails is reported and is not truncated into the slot. Only ST reports it, and only in DENSE. -/
def Obligations.ValueCheckNeverTruncates : Prop :=
  (∀ (s t : State) (a v : RegIdx), exec (.st a v) s = .next t →
    s.config.memOrg = .dense → (s.reg a).toNat < s.config.memSlots →
    (s.config.slotWidth = .bits16 → t.rsp = some .ok) ∧
    (s.config.slotWidth = .bits8 → (s.reg v).toNat ≤ 0x00FF → t.rsp = some .ok) ∧
    (s.config.slotWidth = .bits8 → 0x0100 ≤ (s.reg v).toNat →
      t.rsp = some (.err (.valueOutOfRange (s.reg v)))) ∧
    (t.rsp ≠ some .ok → t.slot (s.reg a) = s.slot (s.reg a))) ∧
  (∀ (i : Instr) (s t : State) (w : Word), exec i s = .next t →
    t.rsp = some (.err (.valueOutOfRange w)) → i.opcode = .st ∧ s.config.memOrg = .dense)

/-- R90: ADD whose sum is at most 0xFFFF completes, and writes op0, and nothing else, with the sum of
the two operands as they were. -/
def Obligations.AddWritesTheSum : Prop :=
  ∀ (s : State) (d a : RegIdx), (s.reg d).toNat + (s.reg a).toNat ≤ 0xFFFF →
    ∃ t v, exec (.add d a) s = .next t ∧ WritesOnlyReg s t d v ∧
      v.toNat = (s.reg d).toNat + (s.reg a).toNat

/-- R100: ADD whose sum exceeds 0xFFFF reports AdditionOverflow with both operands as its payload;
nothing is written, so they are still the registers' values. Its code, 4, and the lines that carry the
payload are the spec's choice, D10 and D11. -/
def Obligations.AddOverflowReportsItsOperands : Prop :=
  ∀ (s : State) (d a : RegIdx), 0xFFFF < (s.reg d).toNat + (s.reg a).toNat →
    ∃ t, exec (.add d a) s = .next t ∧ CommitsNothing s t (.additionOverflow (s.reg d) (s.reg a)) ∧
      t.rspCode = some 4 ∧ t.rspInfo0 = some (t.reg d) ∧ t.rspInfo1 = some (t.reg a)

/-- R91: XOR always completes, and writes op0, and nothing else, with the word whose bit i is 1 exactly
when the operands' bits i differ. -/
def Obligations.XorWritesTheExclusiveOr : Prop :=
  ∀ (s : State) (d a : RegIdx),
    ∃ t v, exec (.xor d a) s = .next t ∧ WritesOnlyReg s t d v ∧
      ∀ i, i < 16 → (v.getLsbD i = true ↔ (s.reg d).getLsbD i ≠ (s.reg a).getLsbD i)

/-- R78: the three cases where the destination is a source: ADD Rn, Rn computes 2·x[n], XOR Rn, Rn
yields 0, and LD Rn, Rn loads from the address x[n] held before. -/
def Obligations.SourcesAreReadBeforeTheWrite : Prop :=
  ∀ (s : State) (n : RegIdx),
    ((s.reg n).toNat < 0x8000 →
      ∃ t, exec (.add n n) s = .next t ∧ (t.reg n).toNat = 2 * (s.reg n).toNat) ∧
    (0x8000 ≤ (s.reg n).toNat →
      ∃ t, exec (.add n n) s = .next t ∧
        t.rsp = some (.err (.additionOverflow (s.reg n) (s.reg n)))) ∧
    (∃ t, exec (.xor n n) s = .next t ∧ t.reg n = 0) ∧
    (∀ v, s.slot (s.reg n) = some v → ∃ t, exec (.ld n n) s = .next t ∧ t.reg n = v)

/-- R94: the laws of ADD and XOR, all four bullets, on the instructions. -/
def Obligations.LawsOfAddAndXor : Prop :=
  ∀ (s : State) (d a e : RegIdx),
    -- ADD is commutative: the same sum, and the same overflow
    (∀ t u, exec (.add d a) s = .next t → exec (.add a d) s = .next u →
      (t.rsp = some .ok → u.rsp = some .ok ∧ t.reg d = u.reg a) ∧
      (t.rsp = some (.err (.additionOverflow (s.reg d) (s.reg a))) ↔
        u.rsp = some (.err (.additionOverflow (s.reg a) (s.reg d))))) ∧
    -- ADD with 0 is the identity and never overflows
    (s.reg a = 0 → ∃ t, exec (.add d a) s = .next t ∧ t.rsp = some .ok ∧ t.reg d = s.reg d) ∧
    -- XOR is commutative, and x XOR 0 = x
    (∀ t u, exec (.xor d a) s = .next t → exec (.xor a d) s = .next u → t.reg d = u.reg a) ∧
    (s.reg a = 0 → ∃ t, exec (.xor d a) s = .next t ∧ t.reg d = s.reg d) ∧
    -- XOR is associative: (d XOR a) XOR e = d XOR (a XOR e)
    (a ≠ d → e ≠ d → ∀ t t' u u',
      exec (.xor d a) s = .next t → exec (.xor d e) t = .next t' →
      exec (.xor a e) s = .next u → exec (.xor d a) u = .next u' → t'.reg d = u'.reg d) ∧
    -- XOR Rn, Rn gives 0, and XOR Rd, Rs twice restores Rd
    (∃ t, exec (.xor d d) s = .next t ∧ t.reg d = 0) ∧
    (d ≠ a → ∃ t u, exec (.xor d a) s = .next t ∧ exec (.xor d a) t = .next u ∧ u.reg d = s.reg d)

/-- R101, R102, R103: each memory error is raised in exactly the rule's circumstances, with the rule's
payload and code, whatever the instruction. The codes are the spec's choice, D10. -/
def Obligations.MemoryErrorsExactlyWhenTheRulesSay : Prop :=
  ∀ (i : Instr) (s t : State), exec i s = .next t →
    (∀ addr, t.rsp = some (.err (.addressOutOfRange addr)) ↔
      s.config.memOrg = .dense ∧ s.config.memSlots ≤ addr.toNat ∧
      ((i.opcode = .ld ∧ addr = s.reg i.op1) ∨ (i.opcode = .st ∧ addr = s.reg i.op0))) ∧
    (∀ value, t.rsp = some (.err (.valueOutOfRange value)) ↔
      s.config.memOrg = .dense ∧ s.config.slotWidth = .bits8 ∧ i.opcode = .st ∧
      (s.reg i.op0).toNat < s.config.memSlots ∧ value = s.reg i.op1 ∧ 2 ^ 8 ≤ value.toNat) ∧
    (∀ addr, t.rsp = some (.err (.memoryEmpty addr)) ↔
      s.config.memOrg = .sparse ∧ i.opcode = .ld ∧ addr = s.reg i.op1 ∧
      Memory.lookup s.mem addr.toNat = none) ∧
    (∀ w, errorCode (.addressOutOfRange w) = 5 ∧ errorInfo0 (.addressOutOfRange w) = w ∧
      errorCode (.valueOutOfRange w) = 6 ∧ errorInfo0 (.valueOutOfRange w) = w ∧
      errorCode (.memoryEmpty w) = 7 ∧ errorInfo0 (.memoryEmpty w) = w)

/-- The source's properties S12 and S13: after an ST that answers Ok, an LD through the same address
register answers the stored value, in DENSE and in SPARSE. -/
def Obligations.LoadAfterStoreReturnsTheValue : Prop :=
  ∀ (s t : State) (a v d : RegIdx), exec (.st a v) s = .next t → t.rsp = some .ok →
    ∃ u, exec (.ld d a) t = .next u ∧ WritesOnlyReg t u d (s.reg v)

/-! ### The transaction -/

/-- R74: if decode fails, no register and no memory slot is written; the error is reported. -/
def Obligations.DecodeFailureWritesNothing : Prop :=
  ∀ (w : Word) (s : State) (e : DecodeError), decode w = .error e →
    ∃ t, process w s = .next t ∧ CommitsNothing s t (decodeErrorKind e) ∧ t.mem = s.mem

/-- R75: a transaction that raises any error, in decode or in execution, commits nothing; in SPARSE
dom(Mem) is the same too. -/
def Obligations.FailedTransactionCommitsNothing : Prop :=
  ∀ (w : Word) (s t : State) (e : ErrorKind), process w s = .next t → t.rsp = some (.err e) →
    CommitsNothing s t e ∧ t.mem = s.mem

/-- R30, R109: after a failed transaction, every next one answers as if the failed one had never been
presented; so the same word presented again reproduces the same error. That the block goes on after an
error is the spec's choice, D13. -/
def Obligations.FailedTransactionLeavesNoTrace : Prop :=
  ∀ (w : Word) (s t : State) (e : ErrorKind), process w s = .next t → t.rsp = some (.err e) →
    (∀ w', process w' t = process w' s) ∧ process w t = .next t

/-- R79: the register write port: only a transaction that answers Ok enables it, only for LD, ADD and
XOR, at op0 and at no other register; and the data it writes, by opcode. -/
def Obligations.RegisterWritePort : Prop :=
  ∀ (i : Instr) (s t : State), exec i s = .next t →
    (∀ q, t.reg q ≠ s.reg q → q = i.op0 ∧ i.opcode ≠ .st ∧ t.rsp = some .ok) ∧
    (t.rsp = some .ok →
      match i with
      | .ld d a => memRead s.config s.mem (s.reg a) = .ok (t.reg d)
      | .st _ _ => True
      | .add d a => (t.reg d).toNat = (s.reg d).toNat + (s.reg a).toNat
      | .xor d a => t.reg d = s.reg d ^^^ s.reg a)

/-- R46: the memory write enable: a slot changes only in the transaction of a word that decodes to an ST
whose checks pass, and then only the one at its address, which receives the value; in every other
transaction, each failed one included, no slot is written. -/
def Obligations.MemoryWriteEnable : Prop :=
  ∀ (w : Word) (s t : State), process w s = .next t →
    (∀ n m, decode w = .ok (.st n m) → t.rsp = some .ok →
      t.slot (storeAddress s n) = some (storeValue s m) ∧
      ∀ a, a ≠ storeAddress s n → t.slot a = s.slot a) ∧
    ((∀ n m, decode w = .ok (.st n m) → t.rsp ≠ some .ok) → t.mem = s.mem)

/-- R81, R80: a transaction changes at most one element of the state, a register or a slot, never both;
which it can be is fixed by the opcode. -/
def Obligations.OneElementWrittenPerTransaction : Prop :=
  ∀ (i : Instr) (s t : State), exec i s = .next t →
    ((∃ q, t.reg q ≠ s.reg q) → ∀ a, t.slot a = s.slot a) ∧
    (∀ q q', t.reg q ≠ s.reg q → t.reg q' ≠ s.reg q' → q = q') ∧
    (∀ a a', t.slot a ≠ s.slot a → t.slot a' ≠ s.slot a' → a = a' ∧ i.opcode = .st)

/-- R126: a transaction's result and next state depend on the configuration, the state (x, Mem) and the
word alone: not on the phase, a response still held, or the host's further moves. -/
def Obligations.ResultDependsOnConfigStateAndWord : Prop :=
  ∀ (w : Word) (s s' t t' : State),
    s.config = s'.config → s.regs = s'.regs → s.mem = s'.mem →
    process w s = .next t → process w s' = .next t' →
    t.rsp = t'.rsp ∧ t.config = t'.config ∧ t.regs = t'.regs ∧ t.mem = t'.mem

/-- R51, with ST's address and value as D5 has them: after a run of words, a slot holds the value of the most recent successful store to it, or what
it held before the run; an LD answers with what the slot holds; and after reset a DENSE slot holds 0 and
a SPARSE load reports MemoryEmpty. -/
def Obligations.LoadsSeeTheMostRecentStore : Prop :=
  (∀ (ws : List Word) (s t : State) (a : Word), processAll ws s = .next t →
    t.slot a = (lastStored a ws s).or (s.slot a)) ∧
  (∀ (t : State) (d a : RegIdx) (v : Word), t.slot (loadAddress t a) = some v →
    ∃ u, exec (.ld d a) t = .next u ∧ WritesOnlyReg t u d v) ∧
  (∀ (c : Config) (a : Word), c.memOrg = .dense → a.toNat < c.memSlots →
    (State.resetWith c).slot a = some 0) ∧
  (∀ (t : State) (d a : RegIdx), t.config.memOrg = .sparse → t.slot (loadAddress t a) = none →
    ∃ u, exec (.ld d a) t = .next u ∧ CommitsNothing t u (.memoryEmpty (loadAddress t a))) ∧
  (∀ (c : Config) (a : Word), c.memOrg = .sparse → (State.resetWith c).slot a = none)

/-! ### The machine -/

/-- R72, R73: when the host's next move is a word that decodes, a step is that instruction's `exec`, at
the state with the word taken from the host and accepted (phase Executed, no response held). When the
word does not decode, the step reports the decode error and changes nothing else. -/
def Obligations.StepRunsTheDecodedInstruction : Prop :=
  ∀ (s : State) (w : Word) (rest : List HostMove),
    legalConfig s.config = true → s.phase = .idle → s.host = .word w :: rest →
    (∀ i, decode w = .ok i →
      step s = exec i { s with host := rest, rsp := none, phase := .executed }) ∧
    (∀ e, decode w = .error e →
      step s = .next { s with host := rest, rsp := some (.err (decodeErrorKind e)) })

/-- Placing an opcode-table word (notes/assumptions/3.md): the very next step runs the instruction the
decoder reads from it, whatever moves the host had still to make. -/
def Obligations.FetchedWordRunsNext : Prop :=
  ∀ (s : State) (nbits w : Nat) (i : Instr),
    legalConfig s.config = true → decodeTableWord nbits w = some i →
    step (s.withFetchWord nbits w) = exec i { s with rsp := none, phase := .executed }

/-- R72: a program is a sequence of words, and running it step by step is the composition of its
transactions, each of which answers. That each step takes one word from the host is the model's choice,
notes/assumptions/3.md. -/
def Obligations.ProgramIsTheCompositionOfItsTransactions : Prop :=
  ∀ (ws : List Word) (rest : List HostMove) (s : State),
    s.Sound → s.host = ws.map HostMove.word ++ rest →
    ∃ t, Host.Core.run Sys2Proof.core ws.length s = .next t ∧
      processAll ws { s with host := rest } = .next t

/-- The invariant of the machine between transactions (R6, R24, R25, R28, R104, R106): from every sound
state a step leads to a sound state. -/
def Obligations.StepKeepsTheMachineSound : Prop :=
  ∀ s t : State, s.Sound → step s = .next t → t.Sound

/-- Construction with any legal configuration, and the reset state, meet the invariant. -/
def Obligations.ResetIsSound : Prop :=
  (∀ c, legalConfig c = true → (State.resetWith c).Sound) ∧ State.reset.Sound

/-- R95: under REG_RESET = ZERO in DENSE memory, reset is all zero, every step of a host that constructs
no other kind of engine keeps it all zero, and no instruction reports an error from such a state. -/
def Obligations.ZeroResetStaysZero : Prop :=
  (∀ c, legalConfig c = true → c.memOrg = .dense → c.regReset = .zero →
    (State.resetWith c).AllZero) ∧
  (∀ s t : State, s.AllZero → step s = .next t → t.AllZero) ∧
  (∀ (s : State) (i : Instr), s.AllZero → ∃ t, exec i s = .next t ∧ t.rsp = some .ok ∧ t.AllZero)

/-- R114: a word always gets an answer: Ok, or an error with the state unchanged; and the block is ready
for the next word, whichever it is (that it goes on after an error is the spec's choice, D13). -/
def Obligations.EveryTransactionAnswers : Prop :=
  ∀ (s : State) (w : Word) (rest : List HostMove), s.Sound → s.host = .word w :: rest →
    ∃ t r, step s = .next t ∧ t.rsp = some r ∧ t.reqReady = true ∧ t.host = rest ∧
      (r = .ok ∨ ∃ e, r = .err e ∧ (∀ q, t.reg q = s.reg q) ∧ (∀ a, t.slot a = s.slot a))

/-- R114, R6: a configuration that is SPARSE with 8-bit slots, or DENSE with MEM_SLOTS outside 1..65536,
is refused, as the argument of either construction move, and as the configuration of a state. The bounds
are the spec's choice, D2 and D3. -/
def Obligations.IllegalConfigurationIsRefused : Prop :=
  ∀ c : Config,
    (c.memOrg = .sparse ∧ c.slotWidth = .bits8) ∨
      (c.memOrg = .dense ∧ (c.memSlots < 1 ∨ 65536 < c.memSlots)) →
    (∀ (s : State) (w : Word) (rest : List HostMove), s.Sound →
      (s.host = .reset c :: rest ∨ s.host = .resetInFlight w c :: rest) →
      step s = .refused .illegalConfiguration) ∧
    (∀ s : State, s.config = c → step s = .refused .illegalConfiguration)

/-- R31, R34, R22: a step changes a register or the memory only by a transaction that answers Ok or by a
construction, and changes the configuration only by a construction. The host's three kinds of move are
the spec's choice, D21, and the model's, notes/assumptions/3.md. -/
def Obligations.OnlyTransactionsAndResetChangeState : Prop :=
  ∀ s t : State, step s = .next t →
    (t.regs ≠ s.regs ∨ t.mem ≠ s.mem →
      ∃ mv rest, s.host = mv :: rest ∧
        ((∃ w, mv = .word w ∧ t.rsp = some .ok) ∨ (∃ c, mv = .reset c) ∨
          (∃ w c, mv = .resetInFlight w c))) ∧
    (t.config ≠ s.config →
      ∃ c rest, s.host = .reset c :: rest ∨ ∃ w, s.host = .resetInFlight w c :: rest)

/-- R116, R19, R26: every element of state after construction with a legal configuration. The two
interface values are the spec's choice, D8 and D18. -/
def Obligations.StateAfterReset : Prop :=
  ∀ c, legalConfig c = true →
    (c.regReset = .zero → ∀ r, (State.resetWith c).reg r = 0x0000) ∧
    (c.regReset = .indexX16 →
      (List.ofFn (State.resetWith c).reg)
        = [0x0000, 0x0010, 0x0020, 0x0030, 0x0040, 0x0050, 0x0060, 0x0070]) ∧
    (c.memOrg = .dense → ∀ a : Word, a.toNat < c.memSlots → (State.resetWith c).slot a = some 0) ∧
    (c.memOrg = .sparse → ∀ a, (State.resetWith c).slot a = none) ∧
    (State.resetWith c).reqReady = true ∧ (State.resetWith c).rspValid = false ∧
    (State.resetWith c).config = c

/-- R115, R118: `rst` between transactions and `rst` while a word's transaction is in flight both lead
to the reset state of the configuration they construct with, keeping nothing but the host's further
moves; the abandoned word leaves no response. `rst` is the spec's choice, D18; that the host names the
configuration with it is the model's, notes/assumptions/8.md. -/
def Obligations.RstConstructsAFreshEngine : Prop :=
  ∀ (s : State) (c : Config) (w : Word) (rest : List HostMove), s.Sound → legalConfig c = true →
    (s.host = .reset c :: rest ∨ s.host = .resetInFlight w c :: rest) →
    ∃ t, step s = .next t ∧ t.config = c ∧ t.regs = (State.resetWith c).regs ∧
      (∀ a, t.slot a = (State.resetWith c).slot a) ∧ t.reqReady = true ∧ t.rspValid = false ∧
      t.host = rest

/-- With no move from the host the block waits in Idle, unchanged: right after reset, as R117 says, and
from every sound state, a held response included (R28, R31, R72). That waiting is a step, and that it is
the host's list of moves being empty, is the model's choice, notes/assumptions/3.md. -/
def Obligations.WaitsInIdleForTheHost : Prop :=
  (∀ s : State, s.Sound → s.host = [] → step s = .next s) ∧
  (∀ c, legalConfig c = true → step (State.resetWith c) = .next (State.resetWith c))

/-- C9, by the model's move `takeResponse` (DESIGN CHOICE, notes/assumptions/4.md): the host takes the
held response, `rsp_valid` falls, and nothing else changes. -/
def Obligations.TakingTheResponseChangesNothingElse : Prop :=
  ∀ (s : State) (rest : List HostMove), s.Sound → s.host = .takeResponse :: rest →
    ∃ t, step s = .next t ∧ t.rspValid = false ∧ t.config = s.config ∧ t.regs = s.regs ∧
      t.mem = s.mem ∧ t.reqReady = true ∧ t.host = rest

/-- R121, I14, as the model has it (notes/assumptions/6.md): a state in which a transaction is in flight
gives the host no move. -/
def Obligations.NoHostMoveInFlight : Prop :=
  ∀ s : State, legalConfig s.config = true → s.reqReady = false → step s = .fault .transactionInFlight

/-! ### The interface -/

/-- R96: the code and payloads of every error as R71 drives them, and R84's all-zero success. The codes
and lines are the spec's choice, D8, D10, D11. -/
def Obligations.ResponseSignalsOfEachOutcome : Prop :=
  ∀ s : State,
    (s.rsp = some .ok → s.rspErr = some false ∧ s.rspCode = some 0 ∧ s.rspInfo0 = some 0 ∧
      s.rspInfo1 = some 0) ∧
    (∀ e, s.rsp = some (.err e) → s.rspErr = some true ∧
      match e with
      | .invalidOpCode opc => s.rspCode = some 1 ∧ s.rspInfo0 = some (opc.setWidth 16) ∧ s.rspInfo1 = some 0
      | .op0OutOfRange f0 => s.rspCode = some 2 ∧ s.rspInfo0 = some (f0.setWidth 16) ∧ s.rspInfo1 = some 0
      | .op1OutOfRange f1 => s.rspCode = some 3 ∧ s.rspInfo0 = some (f1.setWidth 16) ∧ s.rspInfo1 = some 0
      | .additionOverflow a b => s.rspCode = some 4 ∧ s.rspInfo0 = some a ∧ s.rspInfo1 = some b
      | .addressOutOfRange a => s.rspCode = some 5 ∧ s.rspInfo0 = some a ∧ s.rspInfo1 = some 0
      | .valueOutOfRange v => s.rspCode = some 6 ∧ s.rspInfo0 = some v ∧ s.rspInfo1 = some 0
      | .memoryEmpty a => s.rspCode = some 7 ∧ s.rspInfo0 = some a ∧ s.rspInfo1 = some 0
      | .stackOverflow _ => s.rspCode = some 8)

/-- R112, R124: the inspection port while the block is Idle, and no value while it is not (the spec's
choice, D19; in the model notes/assumptions/9.md). -/
def Obligations.InspectionPortShowsTheState : Prop :=
  ∀ (s : State) (sel : BitVec 3) (a : Word),
    (s.reqReady = true →
      s.inspRegData sel = some (s.reg ⟨sel.toNat, sel.isLt⟩) ∧
      (s.config.memOrg = .dense → a.toNat < s.config.memSlots →
        s.inspMemPresent a = some true ∧
        s.inspMemData a = some (((Memory.lookup s.mem a.toNat).getD 0).setWidth
          (slotBits s.config.slotWidth) |>.setWidth 16)) ∧
      (s.config.memOrg = .dense → s.config.memSlots ≤ a.toNat →
        s.inspMemPresent a = some false ∧ s.inspMemData a = some 0) ∧
      (s.config.memOrg = .sparse → ∀ v, Memory.lookup s.mem a.toNat = some v →
        s.inspMemPresent a = some true ∧ s.inspMemData a = some v) ∧
      (s.config.memOrg = .sparse → Memory.lookup s.mem a.toNat = none →
        s.inspMemPresent a = some false ∧ s.inspMemData a = some 0)) ∧
    (s.reqReady = false →
      s.inspRegData sel = none ∧ s.inspMemPresent a = none ∧ s.inspMemData a = none)
end

