-- ==== Sys2Proof/Laws/Decode.lean ====
section
/-!
SUPPORT. The decoder's pieces: the opcode map and the validator.
-/

namespace Sys2Proof

@[simp] theorem opcodeOfByte_opcodeByte (op : Opcode) : opcodeOfByte (opcodeByte op) = some op := by
  cases op <;> rfl

theorem opcodeOfByte_eq_some {b : OpcodeByte} {op : Opcode} :
    opcodeOfByte b = some op ↔ b = opcodeByte op := by
  constructor
  · intro h
    unfold opcodeOfByte at h
    split at h
    next hb => subst hb; injection h with h; subst h; rfl
    next =>
      split at h
      next hb => subst hb; injection h with h; subst h; rfl
      next =>
        split at h
        next hb => subst hb; injection h with h; subst h; rfl
        next =>
          split at h
          next hb => subst hb; injection h with h; subst h; rfl
          next => simp at h
  · rintro rfl; simp

theorem opcodeOfByte_eq_none {b : OpcodeByte} : opcodeOfByte b = none ↔ 0x03 < b.toNat := by
  revert b; decide

theorem validateOperand_eq_some {f : OperandField} {r : RegIdx} :
    validateOperand f = some r ↔ f.toNat = r.val := by
  revert f r; decide

theorem validateOperand_eq_none {f : OperandField} : validateOperand f = none ↔ 7 < f.toNat := by
  revert f; decide

end Sys2Proof
end

