-- ==== Sys2Proof/Laws/Memory.lean ====
section
/-!
SUPPORT. The memory's laws: a read after a write to the same address gives the value written, a write
leaves every other address alone, every memory operation keeps the canonical form, and what the checked
read and write can answer.
-/

namespace Sys2Proof.Machine

theorem Memory.lookup_put (m : Memory) (a b : Nat) (v : Word) :
    Memory.lookup (Memory.put m a v) b = if b = a then some v else Memory.lookup m b := by
  induction m with
  | nil => grind [Memory.put, Memory.lookup]
  | cons cell m ih => grind [Memory.put, Memory.lookup]

theorem Memory.lookup_unlist (m : Memory) (a b : Nat) :
    Memory.lookup (Memory.unlist m a) b = if b = a then none else Memory.lookup m b := by
  induction m with
  | nil => simp [Memory.unlist, Memory.lookup]
  | cons cell m ih =>
    simp only [Memory.unlist, List.filter_cons] at ih ⊢
    grind [Memory.lookup]

/-- What the listing of an address stands for, after a store: the value stored there, and what it stood
for before everywhere else. -/
theorem Memory.listed_store (c : Config) (m : Memory) (a b : Nat) (v : Word) :
    (Memory.lookup (Memory.store c m a v) b).or (Memory.unlisted c)
      = if b = a then some v else (Memory.lookup m b).or (Memory.unlisted c) := by
  unfold Memory.store
  split
  next h => rw [Memory.lookup_unlist]; split <;> simp [h]
  next h => rw [Memory.lookup_put]; split <;> simp

theorem Memory.mem_put {m : Memory} {a : Nat} {v : Word} {cell : Nat × Word}
    (h : cell ∈ Memory.put m a v) : cell = (a, v) ∨ cell ∈ m := by
  induction m with
  | nil => simpa [Memory.put] using h
  | cons head m ih => grind [Memory.put]

theorem Memory.rising_put {m : Memory} (a : Nat) (v : Word) (h : m.Pairwise (fun p q => p.1 < q.1)) :
    (Memory.put m a v).Pairwise (fun p q => p.1 < q.1) := by
  induction m with
  | nil => simp [Memory.put]
  | cons head m ih =>
    obtain ⟨hhead, hrest⟩ := List.pairwise_cons.mp h
    unfold Memory.put
    split
    next hlt =>
      refine List.pairwise_cons.mpr ⟨?_, h⟩
      rintro q (_ | ⟨_, hq⟩)
      · exact hlt
      · exact Nat.lt_trans hlt (hhead q hq)
    next hlt =>
      split
      next heq => exact List.pairwise_cons.mpr ⟨fun q hq => heq ▸ hhead q hq, hrest⟩
      next hne =>
        refine List.pairwise_cons.mpr ⟨fun q hq => ?_, ih hrest⟩
        rcases Memory.mem_put hq with rfl | hq
        · exact Nat.lt_of_le_of_ne (Nat.le_of_not_lt hlt) hne
        · exact hhead q hq

theorem Memory.wf_iff (c : Config) (m : Memory) :
    Memory.wf c m = true ↔
      m.Pairwise (fun p q => p.1 < q.1) ∧ ∀ cell ∈ m, cellLegal c cell = true := by
  simp [Memory.wf]

/-- A store of a value that fits its slot, at an address that exists, keeps the canonical form. -/
theorem Memory.wf_store {c : Config} {m : Memory} {a : Nat} {v : Word} (h : Memory.wf c m = true)
    (hcell : Memory.unlisted c ≠ some v → cellLegal c (a, v) = true) :
    Memory.wf c (Memory.store c m a v) = true := by
  obtain ⟨hrising, hcells⟩ := (Memory.wf_iff c m).mp h
  unfold Memory.store
  split
  next => exact (Memory.wf_iff c _).mpr
            ⟨hrising.filter _, fun cell hc => hcells cell (List.mem_filter.mp hc).1⟩
  next hne =>
    refine (Memory.wf_iff c _).mpr ⟨Memory.rising_put a v hrising, fun cell hc => ?_⟩
    rcases Memory.mem_put hc with rfl | hc
    · exact hcell hne
    · exact hcells cell hc

theorem slotPart_sparse {c : Config} (h : c.memOrg = .sparse) (v : Word) : slotPart c v = v := by
  simp [slotPart, h]

/-- R47: with 16-bit slots nothing is narrowed. -/
theorem slotPart_bits16 {c : Config} (h : c.slotWidth = .bits16) (v : Word) : slotPart c v = v := by
  obtain ⟨_ | _, _, _, _⟩ := c <;> subst h <;> simp [slotPart, slotBits]

/-- R40: an 8-bit DENSE slot is zero-extended. -/
theorem slotPart_dense_bits8 {c : Config} (hd : c.memOrg = .dense) (h : c.slotWidth = .bits8)
    (v : Word) : slotPart c v = (v.setWidth 8).setWidth 16 := by
  obtain ⟨_, _, _, _⟩ := c
  subst hd h
  rfl

/-- R41: a value that passes the value checker loses nothing when it is narrowed to its slot. -/
theorem slotPart_of_valueCheck {c : Config} {v : Word} (h : valueCheck c v = none) :
    slotPart c v = v := by
  cases hc : c.memOrg <;> simp only [valueCheck, slotPart, hc] at h ⊢
  have hv : v.toNat < 2 ^ slotBits c.slotWidth := by
    by_contra hn; simp [hn] at h
  apply BitVec.eq_of_toNat_eq
  simp [BitVec.toNat_setWidth, Nat.mod_eq_of_lt hv, v.isLt]

theorem addressCheck_eq_none (c : Config) (a : Word) :
    addressCheck c a = none ↔ (c.memOrg = .dense → a.toNat < c.memSlots) := by
  cases hc : c.memOrg <;> simp [addressCheck, hc]

theorem valueCheck_eq_none (c : Config) (v : Word) :
    valueCheck c v = none ↔ (c.memOrg = .dense → v.toNat < 2 ^ slotBits c.slotWidth) := by
  cases hc : c.memOrg <;> simp [valueCheck, hc]

/-- R39, R40, R42: what the checked read can answer. -/
theorem memRead_cases (c : Config) (m : Memory) (a : Word) :
    (c.memOrg = .dense ∧ c.memSlots ≤ a.toNat ∧ memRead c m a = .error (.addressOutOfRange a)) ∨
    (c.memOrg = .dense ∧ a.toNat < c.memSlots ∧
      memRead c m a = .ok (slotPart c ((Memory.lookup m a.toNat).getD 0))) ∨
    (c.memOrg = .sparse ∧ Memory.lookup m a.toNat = none ∧ memRead c m a = .error (.memoryEmpty a)) ∨
    (c.memOrg = .sparse ∧ ∃ v, Memory.lookup m a.toNat = some v ∧ memRead c m a = .ok v) := by
  cases hc : c.memOrg
  · by_cases ha : a.toNat < c.memSlots
    · refine .inr (.inl ⟨rfl, ha, ?_⟩)
      cases hl : Memory.lookup m a.toNat <;>
        simp [memRead, addressCheck, Memory.content, Memory.unlisted, hc, ha, hl]
    · refine .inl ⟨rfl, Nat.le_of_not_lt ha, ?_⟩
      simp [memRead, addressCheck, hc, ha]
  · cases hl : Memory.lookup m a.toNat <;>
      simp [memRead, addressCheck, Memory.content, Memory.unlisted, slotPart, hc, hl]

/-- R41, R43: what the checked write can answer. -/
theorem memWrite_cases (c : Config) (m : Memory) (a v : Word) :
    (c.memOrg = .dense ∧ c.memSlots ≤ a.toNat ∧ memWrite c m a v = .error (.addressOutOfRange a)) ∨
    (c.memOrg = .dense ∧ a.toNat < c.memSlots ∧ 2 ^ slotBits c.slotWidth ≤ v.toNat ∧
      memWrite c m a v = .error (.valueOutOfRange v)) ∨
    (addressCheck c a = none ∧ valueCheck c v = none ∧
      memWrite c m a v = .ok (Memory.store c m a.toNat v)) := by
  by_cases hv : valueCheck c v = none
  · by_cases ha : addressCheck c a = none
    · refine .inr (.inr ⟨ha, hv, ?_⟩)
      simp [memWrite, ha, hv, slotPart_of_valueCheck hv]
    · refine .inl ?_
      cases hc : c.memOrg <;> simp [addressCheck, memWrite, hc] at ha ⊢
      simp [Nat.not_lt.mpr ha, ha]
  · cases hc : c.memOrg <;> simp [valueCheck, hc] at hv
    by_cases ha : a.toNat < c.memSlots
    · refine .inr (.inl ⟨rfl, ha, hv, ?_⟩)
      simp [memWrite, addressCheck, valueCheck, hc, ha, Nat.not_lt.mpr hv]
    · exact .inl ⟨rfl, Nat.le_of_not_lt ha, by simp [memWrite, addressCheck, hc, ha]⟩

/-- The checked write keeps the canonical form. -/
theorem memWrite_wf {c : Config} {m m' : Memory} {a v : Word} (h : Memory.wf c m = true)
    (hw : memWrite c m a v = .ok m') : Memory.wf c m' = true := by
  obtain ⟨-, -, he⟩ | ⟨-, -, -, he⟩ | ⟨ha, hv, he⟩ := memWrite_cases c m a v
  · simp [he] at hw
  · simp [he] at hw
  · obtain rfl : Memory.store c m a.toNat v = m' := by simpa [he] using hw
    refine Memory.wf_store h fun hne => ?_
    rw [addressCheck_eq_none] at ha
    rw [valueCheck_eq_none] at hv
    cases hc : c.memOrg
    · simp only [Memory.unlisted, hc] at hne
      have hv0 : v ≠ 0#16 := fun h => hne (congrArg some h.symm)
      simp [cellLegal, hc, ha hc, hv hc, hv0]
    · have := a.isLt
      simp [cellLegal, hc, this]

/-- A memory slot after a store that passed both checks: the stored value at its address, and what was
there before at every other. -/
theorem State.slot_store (s : State) (a b v : Word) (ha : addressCheck s.config a = none)
    (hv : valueCheck s.config v = none) :
    State.slot { s with mem := Memory.store s.config s.mem a.toNat v } b
      = if b = a then some v else s.slot b := by
  unfold State.slot Memory.content
  rw [Memory.listed_store]
  by_cases hb : b = a
  · subst hb; simp [ha, slotPart_of_valueCheck hv]
  · have : b.toNat ≠ a.toNat := fun h => hb (BitVec.eq_of_toNat_eq h)
    simp [hb, this]

end Sys2Proof.Machine
end

