-- ==== Sys2Proof/Laws/State.lean ====
section
/-!
SUPPORT. One lemma per field per update of the state, so that no later proof unfolds a record update.
-/

namespace Sys2Proof.Machine

variable (s : State) (r : RegIdx) (v : Word) (m : Memory) (h : List HostMove) (rs : Response)

@[simp] theorem State.writeReg_config : (s.writeReg r v).config = s.config := rfl
@[simp] theorem State.writeReg_regs : (s.writeReg r v).regs = s.regs.set r.val v := rfl
@[simp] theorem State.writeReg_mem : (s.writeReg r v).mem = s.mem := rfl
@[simp] theorem State.writeReg_phase : (s.writeReg r v).phase = s.phase := rfl
@[simp] theorem State.writeReg_rsp : (s.writeReg r v).rsp = s.rsp := rfl
@[simp] theorem State.writeReg_host : (s.writeReg r v).host = s.host := rfl

@[simp] theorem State.accept_config : s.accept.config = s.config := rfl
@[simp] theorem State.accept_regs : s.accept.regs = s.regs := rfl
@[simp] theorem State.accept_mem : s.accept.mem = s.mem := rfl
@[simp] theorem State.accept_phase : s.accept.phase = .decoded := rfl
@[simp] theorem State.accept_rsp : s.accept.rsp = none := rfl
@[simp] theorem State.accept_host : s.accept.host = s.host := rfl

@[simp] theorem State.execute_config : s.execute.config = s.config := rfl
@[simp] theorem State.execute_regs : s.execute.regs = s.regs := rfl
@[simp] theorem State.execute_mem : s.execute.mem = s.mem := rfl
@[simp] theorem State.execute_phase : s.execute.phase = .executed := rfl
@[simp] theorem State.execute_rsp : s.execute.rsp = s.rsp := rfl
@[simp] theorem State.execute_host : s.execute.host = s.host := rfl

@[simp] theorem State.respond_config : (s.respond rs).config = s.config := rfl
@[simp] theorem State.respond_regs : (s.respond rs).regs = s.regs := rfl
@[simp] theorem State.respond_mem : (s.respond rs).mem = s.mem := rfl
@[simp] theorem State.respond_phase : (s.respond rs).phase = .idle := rfl
@[simp] theorem State.respond_rsp : (s.respond rs).rsp = some rs := rfl
@[simp] theorem State.respond_host : (s.respond rs).host = s.host := rfl

@[simp] theorem State.presentNext_config : (s.presentNext v).config = s.config := rfl
@[simp] theorem State.presentNext_regs : (s.presentNext v).regs = s.regs := rfl
@[simp] theorem State.presentNext_mem : (s.presentNext v).mem = s.mem := rfl
@[simp] theorem State.presentNext_phase : (s.presentNext v).phase = .idle := rfl
@[simp] theorem State.presentNext_rsp : (s.presentNext v).rsp = s.rsp := rfl
@[simp] theorem State.presentNext_host : (s.presentNext v).host = .word v :: s.host := rfl

/-! Reading a register or a slot sees only the register file, or the configuration and the memory. -/

@[simp] theorem State.reg_writeReg_self : (s.writeReg r v).reg r = v := by
  simp [State.reg]

theorem State.reg_writeReg_of_ne {q : RegIdx} (hq : q ≠ r) : (s.writeReg r v).reg q = s.reg q := by
  have : r.val ≠ q.val := fun e => hq (Fin.ext e.symm)
  simp [State.reg, Vector.getElem_set_ne, this]

@[simp] theorem State.reg_accept : s.accept.reg r = s.reg r := rfl
@[simp] theorem State.reg_execute : s.execute.reg r = s.reg r := rfl
@[simp] theorem State.reg_respond : (s.respond rs).reg r = s.reg r := rfl
@[simp] theorem State.reg_set_mem : State.reg { s with mem := m } r = s.reg r := rfl
@[simp] theorem State.reg_set_host : State.reg { s with host := h } r = s.reg r := rfl

@[simp] theorem State.slot_writeReg (a : Word) : (s.writeReg r v).slot a = s.slot a := rfl
@[simp] theorem State.slot_accept (a : Word) : s.accept.slot a = s.slot a := rfl
@[simp] theorem State.slot_execute (a : Word) : s.execute.slot a = s.slot a := rfl
@[simp] theorem State.slot_respond (a : Word) : (s.respond rs).slot a = s.slot a := rfl
@[simp] theorem State.slot_set_host (a : Word) : State.slot { s with host := h } a = s.slot a := rfl

/-- R19: every register's reset value. -/
theorem State.reg_resetWith (c : Config) : (State.resetWith c).reg r = resetReg c.regReset r := by
  obtain ⟨_, _, _, p⟩ := c
  cases p <;> revert r <;> exact of_decide_eq_true rfl

end Sys2Proof.Machine
end

