-- ==== Sys2Proof/Laws/Exec.lean ====
section
/-!
SUPPORT. What the shared operations and the instructions can answer, said once each: provers cite these
instead of unfolding the machine.
-/

namespace Sys2Proof.Machine

/-- R89, R90: the checked addition. -/
theorem aluAdd_cases (a b : Word) :
    (0xFFFF < a.toNat + b.toNat ∧ aluAdd a b = .error (.additionOverflow a b)) ∨
    (a.toNat + b.toNat ≤ 0xFFFF ∧ ∃ v, aluAdd a b = .ok v ∧ v.toNat = a.toNat + b.toNat) := by
  by_cases h : 0xFFFF < a.toNat + b.toNat
  · exact .inl ⟨h, by simp [aluAdd, addOverflows, addSum, h]⟩
  · refine .inr ⟨Nat.le_of_not_lt h, BitVec.ofNat 16 (addSum a b), by simp [aluAdd, addOverflows, addSum, h], ?_⟩
    simp [addSum]; omega

/-- Every instruction ends its transaction: with an error that commits nothing, with a write of its
register op0, or with a store that passed both checks. -/
theorem exec_cases (i : Instr) (s : State) :
    (∃ e, exec i s = .next (s.respond (.err e))) ∨
    (i.opcode ≠ .st ∧ ∃ v, exec i s = .next ((s.writeReg i.op0 v).respond .ok)) ∨
    (i.opcode = .st ∧ addressCheck s.config (s.reg i.op0) = none ∧
      valueCheck s.config (s.reg i.op1) = none ∧
      exec i s = .next (State.respond
        { s with mem := Memory.store s.config s.mem (s.reg i.op0).toNat (s.reg i.op1) } .ok)) := by
  cases i with
  | ld d a =>
    simp only [exec, execLd]
    cases memRead s.config s.mem (loadAddress s a) with
    | error e => exact .inl ⟨e, rfl⟩
    | ok v => exact .inr (.inl ⟨by simp [Instr.opcode], v, rfl⟩)
  | st a v =>
    simp only [exec, execSt]
    obtain ⟨-, -, he⟩ | ⟨-, -, -, he⟩ | ⟨ha, hv, he⟩ :=
      memWrite_cases s.config s.mem (storeAddress s a) (storeValue s v)
    · exact .inl ⟨_, by rw [he]; rfl⟩
    · exact .inl ⟨_, by rw [he]; rfl⟩
    · exact .inr (.inr ⟨rfl, ha, hv, by rw [he]; rfl⟩)
  | add d a =>
    simp only [exec, execAdd]
    cases aluAdd (portA s d) (portB s a) with
    | error e => exact .inl ⟨e, rfl⟩
    | ok v => exact .inr (.inl ⟨by simp [Instr.opcode], v, rfl⟩)
  | xor d a => exact .inr (.inl ⟨by simp [Instr.opcode], _, rfl⟩)

/-- The answer of an instruction does not look at the phase or at a response still held. -/
theorem exec_accept_execute (i : Instr) (s : State) : exec i s.accept.execute = exec i s := by
  cases i with
  | ld d a => simp only [exec, execLd, loadAddress, portB]; simp; cases memRead s.config s.mem (s.reg a) <;> rfl
  | st a v =>
    simp only [exec, execSt, storeAddress, storeValue, portA, portB]; simp
    cases memWrite s.config s.mem (s.reg a) (s.reg v) <;> rfl
  | add d a => simp only [exec, execAdd, portA, portB]; simp; cases aluAdd (s.reg d) (s.reg a) <;> rfl
  | xor d a => rfl

/-- One transaction: a decode error reported, or the decoded instruction run. -/
theorem process_eq (w : Word) (s : State) :
    process w s = match decode w with
      | .error e => .next (s.respond (.err (decodeErrorKind e)))
      | .ok i => exec i s := by
  unfold process
  cases decode w with
  | error e => rfl
  | ok i => exact exec_accept_execute i s

/-- R114: every transaction answers. -/
theorem process_next (w : Word) (s : State) : ∃ t, process w s = .next t := by
  rw [process_eq]
  cases decode w with
  | error e => exact ⟨_, rfl⟩
  | ok i =>
    obtain ⟨e, h⟩ | ⟨-, v, h⟩ | ⟨-, -, -, h⟩ := exec_cases i s
    · exact ⟨_, h⟩
    · exact ⟨_, h⟩
    · exact ⟨_, h⟩

/-- What a step from a state between transactions does, by the host's next move. -/
theorem advance_eq {s : State} (hc : legalConfig s.config = true) (hp : s.phase = .idle) :
    advance s = match s.host with
      | [] => .next s
      | mv :: rest => hostMove mv { s with host := rest } := by
  unfold advance
  rw [if_pos hc]
  split
  · rfl
  all_goals simp_all

end Sys2Proof.Machine
end

