-- ==== Sys2Proof/Laws/PerInstr.lean ====
section
/-!
SUPPORT. One statement about every instruction as syntax: the fields of its word are its own opcode byte
and its two register indices, and they pass every check of R62.
-/

namespace Sys2Proof.Laws.EncodedFields

def Statement (i : Instr) : Prop :=
  (splitWord (encode i)).opc = opcodeByte i.opcode ∧
  (splitWord (encode i)).f0.toNat = i.op0.val ∧
  (splitWord (encode i)).f1.toNat = i.op1.val ∧
  (splitWord (encode i)).wellFormed = true

theorem ld (op0 op1 : RegIdx) : Statement (.ld op0 op1) := by
  unfold Statement; revert op0 op1; decide

theorem st (op0 op1 : RegIdx) : Statement (.st op0 op1) := by
  unfold Statement; revert op0 op1; decide

theorem add (op0 op1 : RegIdx) : Statement (.add op0 op1) := by
  unfold Statement; revert op0 op1; decide

theorem xor (op0 op1 : RegIdx) : Statement (.xor op0 op1) := by
  unfold Statement; revert op0 op1; decide

end Sys2Proof.Laws.EncodedFields
end

