-- ==== Sys2Proof/Tests/Slice0.lean ====
section
/-!
SUPPORT. Tests. Expected results are the source's examples and the derived vectors of
spec/95_test_vectors.md, named in each comment (S, D, A, X, L, T, R and P there). After them stand the
witnesses: for each statement with hypotheses, a concrete case that meets all of them, at a boundary of
each clause's range.
-/

namespace Sys2Proof.Tests

open Sys2Proof.Machine

/-! ### Small states -/

/-- TC16 of 95_test_vectors.md. -/
def tc16 : Config := { memOrg := .dense, slotWidth := .bits16, memSlots := 256, regReset := .zero }

/-- TC8. -/
def tc8 : Config := { memOrg := .dense, slotWidth := .bits8, memSlots := 256, regReset := .zero }

/-- TCS; MEM_SLOTS does not apply. -/
def tcs : Config := { memOrg := .sparse, slotWidth := .bits16, memSlots := 0, regReset := .zero }

/-- Configuration c with x0, x1 and a memory, between transactions, and the host's moves. -/
def st2 (c : Config) (x0 x1 : Word) (m : Memory) (h : List HostMove) : State :=
  { config := c, regs := #v[x0, x1, 0, 0, 0, 0, 0, 0], mem := m, phase := .idle, rsp := none, host := h }

/-- The next state of an outcome. -/
def after (o : Host.Outcome State Fault Refusal) : Option State :=
  match o with
  | .next t => some t
  | .fault _ => none
  | .refused _ => none

/-- The refusal of an outcome. -/
def refusal (o : Host.Outcome State Fault Refusal) : Option Refusal :=
  match o with
  | .next _ => none
  | .fault _ => none
  | .refused r => some r

/-- x0, the slot at an address and the response after an outcome. -/
def seen (o : Host.Outcome State Fault Refusal) (a : Word) : Option (Word × Option Word × Option Response) :=
  (after o).map fun t => (t.reg 0, t.slot a, t.rsp)

/-! ### WellFormed: an ill-formed term for each check, at its boundary (R58, R60) -/

theorem test_wf_legal : ({ opc := 0x03, f0 := 7, f1 := 7 } : Fields).wellFormed = true := by decide
theorem test_wf_refuses_opcode : ({ opc := 0x04, f0 := 0, f1 := 0 } : Fields).wellFormed = false := by decide
theorem test_wf_refuses_op0 : ({ opc := 0x00, f0 := 8, f1 := 0 } : Fields).wellFormed = false := by decide
theorem test_wf_refuses_op1 : ({ opc := 0x00, f0 := 0, f1 := 8 } : Fields).wellFormed = false := by decide

/-! ### Decoding: words written out bit by bit from R56 and R58 -/

/-- S4: opc 00000000, op0 0000, op1 0001. -/
theorem test_decode_ld : decode 0b0000000000000001 = .ok (.ld 0 1) := by decide
/-- S6: opc 00000001, op0 0101, op1 0000. -/
theorem test_decode_st : decode 0b0000000101010000 = .ok (.st 5 0) := by decide
/-- S1: opc 00000010, op0 0000, op1 0001. -/
theorem test_decode_add : decode 0b0000001000000001 = .ok (.add 0 1) := by decide
/-- S5: opc 00000011, op0 0010, op1 0011. -/
theorem test_decode_xor : decode 0b0000001100100011 = .ok (.xor 2 3) := by decide
/-- D17: all eight opcode bits count. -/
theorem test_decode_opcode_whole : decode 0x1000 = .error (.invalidOpCode 0x10) := by decide
/-- D11, D14: the order of the checks. -/
theorem test_decode_order : decode 0x0288 = .error (.op0OutOfRange 8) ∧
    decode 0x0480 = .error (.invalidOpCode 0x04) := by decide
theorem test_encode_xor : encode (.xor 2 3) = 0x0323 := by decide
theorem test_table_word : decodeTableWord 16 0x0150 = some (.st 5 0) ∧ decodeTableWord 16 0x0400 = none := by
  decide
/-- R68. -/
theorem test_assembler_text : assemblerText (.st 5 0) = "ST R5, R0" := by decide

/-! ### One transaction -/

/-- L1, and L6: an 8-bit slot is zero-extended. -/
theorem test_ld :
    seen (exec (.ld 0 1) (st2 tc16 0 0x0010 [(0x10, 0xBEEF)] [])) 0x10
      = some (0xBEEF, some 0xBEEF, some .ok) ∧
    seen (exec (.ld 0 1) (st2 tc8 0 3 [(3, 0xAB)] [])) 3 = some (0x00AB, some 0x00AB, some .ok) := by
  decide
/-- L3: addr = MEM_SLOTS, and L7. -/
theorem test_ld_errors :
    seen (exec (.ld 0 1) (st2 tc16 5 0x0100 [] [])) 0x100
      = some (5, none, some (.err (.addressOutOfRange 0x0100))) ∧
    seen (exec (.ld 0 1) (st2 tcs 5 0x0010 [] [])) 0x10
      = some (5, none, some (.err (.memoryEmpty 0x0010))) := by decide
/-- T1, and T9: in SPARSE a stored 0 is in dom(Mem). -/
theorem test_st :
    seen (exec (.st 0 1) (st2 tc16 0x0010 0xBEEF [] [])) 0x10 = some (0x0010, some 0xBEEF, some .ok) ∧
    seen (exec (.st 0 1) (st2 tcs 0x0010 0 [] [])) 0x10 = some (0x0010, some 0, some .ok) := by decide
/-- T7: the address is checked first. -/
theorem test_st_order : seen (exec (.st 0 1) (st2 tc8 0x0100 0x0100 [] [])) 0
    = some (0x0100, some 0, some (.err (.addressOutOfRange 0x0100))) := by decide
/-- A1. -/
theorem test_add : seen (exec (.add 0 1) (st2 tc16 3 4 [] [])) 0 = some (7, some 0, some .ok) := by decide
/-- A3. -/
theorem test_add_overflow : seen (exec (.add 0 1) (st2 tc16 0xFFFF 1 [] [])) 0
    = some (0xFFFF, some 0, some (.err (.additionOverflow 0xFFFF 1))) := by decide
/-- X4. -/
theorem test_xor : seen (exec (.xor 0 1) (st2 tc16 0x1234 0xFFFF [] [])) 0
    = some (0xEDCB, some 0, some .ok) := by decide

/-! ### Memory in canonical form, reset, and the step -/

/-- Writing what an unlisted address holds removes the entry. -/
theorem test_store_zero_unlists : Memory.store tc16 [(3, 7), (5, 9)] 3 0 = [(5, 9)] := by decide
theorem test_store_keeps_order : Memory.store tc16 [(3, 7), (9, 9)] 5 1 = [(3, 7), (5, 1), (9, 9)] := by decide
/-- R2 of section 2.6. -/
theorem test_reset_index : (State.resetWith { tc16 with regReset := .indexX16 }).regs
    = #v[0x0000, 0x0010, 0x0020, 0x0030, 0x0040, 0x0050, 0x0060, 0x0070] := by decide
/-- R4 of section 2.6. -/
theorem test_inspect_absent : (State.resetWith tc16).inspMemPresent 0x0100 = some false := by decide
/-- A step runs a table word as the first instruction after reset (P6 step 4). -/
theorem test_step_first_word :
    (after (step (State.reset.withFetchWord 16 0x0377))).map (fun t => (t.reg 7, t.rsp, t.host))
      = some (0, some .ok, []) := by decide
/-- D14: the step reports a decode error and goes on. -/
theorem test_step_illegal_word :
    (after (step (State.reset.withFetchWord 16 0x0480))).map (fun t => (t.rsp, t.phase))
      = some (some (.err (.invalidOpCode 0x04)), .idle) := by decide
/-- I7: SPARSE with 8-bit slots is refused. -/
theorem test_reset_illegal :
    refusal (step (st2 tc16 0 0 [] [.reset { tcs with slotWidth := .bits8 }]))
      = some .illegalConfiguration := by decide

/-! ### Witnesses -/

/-- A state between transactions with no response held is sound when its plain checks say so. -/
theorem sound_st2 {c : Config} {x0 x1 : Word} {m : Memory} {h : List HostMove}
    (hc : legalConfig c = true) (hm : Memory.wf c m = true) : (st2 c x0 x1 m h).Sound :=
  ⟨hc, hm, rfl, fun _ he => by simp [st2] at he⟩

theorem witness_IllegalWordsFailDecode : decode 0x0400 = .error (.invalidOpCode 0x04) := by decide

theorem witness_EncodeAndDecodeAgree : decode 0x0377 = .ok (.xor 7 7) := by decide

theorem witness_DecodeReportsTheFirstFailedCheck :
    ((0x0400 : Word).toNat = (0x04 : OpcodeByte).toNat * 256 + (0 : OperandField).toNat * 16 + (0 : OperandField).toNat
      ∧ 3 < (0x04 : OpcodeByte).toNat) ∧
    ((0x0388 : Word).toNat = (0x03 : OpcodeByte).toNat * 256 + (8 : OperandField).toNat * 16 + (8 : OperandField).toNat
      ∧ (0x03 : OpcodeByte).toNat ≤ 3 ∧ 7 < (8 : OperandField).toNat) ∧
    ((0x0378 : Word).toNat = (0x03 : OpcodeByte).toNat * 256 + (7 : OperandField).toNat * 16 + (8 : OperandField).toNat
      ∧ (7 : OperandField).toNat ≤ 7 ∧ 7 < (8 : OperandField).toNat) ∧
    ((0x0377 : Word).toNat = (0x03 : OpcodeByte).toNat * 256 + (7 : OperandField).toNat * 16 + (7 : OperandField).toNat
      ∧ (7 : OperandField).toNat ≤ 7) := by decide

/-- L2: the last slot. -/
theorem witness_LoadFromDenseMemory :
    (st2 tc16 0 0x00FF [] []).config.memOrg = .dense ∧
    (loadAddress (st2 tc16 0 0x00FF [] []) 1).toNat < (st2 tc16 0 0x00FF [] []).config.memSlots ∧
    (st2 tc8 0 0x00FF [(0xFF, 0xAB)] []).config.memOrg = .dense ∧
    (loadAddress (st2 tc8 0 0x00FF [(0xFF, 0xAB)] []) 1).toNat < tc8.memSlots := by decide

/-- L8 and L7. -/
theorem witness_LoadFromSparseMemory :
    tcs.memOrg = .sparse ∧
    Memory.lookup (st2 tcs 0 0xFFFF [(0xFFFF, 0x1234)] []).mem
      ((st2 tcs 0 0xFFFF [(0xFFFF, 0x1234)] []).reg 1).toNat = some 0x1234 ∧
    Memory.lookup (st2 tcs 0 0x0010 [] []).mem ((st2 tcs 0 0x0010 [] []).reg 1).toNat = none := by decide

/-- T6 at the last address, and T8. -/
theorem witness_StoreWritesTheAddressedSlot :
    ((st2 tc8 0x00FF 0x00FF [] []).reg 0).toNat < tc8.memSlots ∧
    tc8.slotWidth = .bits8 ∧ ((st2 tc8 0x00FF 0x00FF [] []).reg 1).toNat ≤ 0xFF ∧
    tcs.memOrg ≠ .dense := by decide

/-- T2 and T5. -/
theorem witness_DenseStoreFailures :
    tc16.memOrg = .dense ∧ tc16.memSlots ≤ ((st2 tc16 0x0100 0xBEEF [] []).reg 0).toNat ∧
    tc8.memOrg = .dense ∧ ((st2 tc8 0x00FF 0x0100 [] []).reg 0).toNat < tc8.memSlots ∧
    tc8.slotWidth = .bits8 ∧ 0xFF < ((st2 tc8 0x00FF 0x0100 [] []).reg 1).toNat := by decide

/-- T6 and T5, with 8-bit slots, and T3, with 16-bit slots. -/
theorem witness_ValueCheckNeverTruncates :
    (∃ t, exec (.st 0 1) (st2 tc8 0x0010 0x00FF [] []) = .next t ∧ t.rsp = some .ok) ∧
    (∃ t, exec (.st 0 1) (st2 tc8 0x0010 0x0100 [] []) = .next t ∧
      t.rsp = some (.err (.valueOutOfRange 0x0100))) ∧
    (∃ t, exec (.st 0 1) (st2 tc16 0x00FF 0xFFFF [] []) = .next t ∧ t.rsp = some .ok) :=
  ⟨⟨_, rfl, by decide⟩, ⟨_, rfl, by decide⟩, ⟨_, rfl, by decide⟩⟩

/-- An in-range load, an out-of-range store, and a SPARSE load. -/
theorem witness_AddressCheckBoundsEveryAccess :
    (∃ t, exec (.ld 0 1) (st2 tc16 0 0x00FF [] []) = .next t ∧
      loadAddress (st2 tc16 0 0x00FF [] []) 1 = 0x00FF) ∧
    (∃ t, exec (.st 0 1) (st2 tc16 0x0100 0 [] []) = .next t ∧
      storeAddress (st2 tc16 0x0100 0 [] []) 0 = 0x0100) ∧
    (∃ t, exec (.ld 0 1) (st2 tcs 0 0xFFFF [] []) = .next t ∧ tcs.memOrg = .sparse) :=
  ⟨⟨_, rfl, by decide⟩, ⟨_, rfl, by decide⟩, ⟨_, rfl, rfl⟩⟩

/-- A9. -/
theorem witness_AddWritesTheSum :
    ((st2 tc16 0x1234 0xEDCB [] []).reg 0).toNat + ((st2 tc16 0x1234 0xEDCB [] []).reg 1).toNat
      ≤ 0xFFFF := by decide

/-- A10. -/
theorem witness_AddOverflowReportsItsOperands :
    0xFFFF < ((st2 tc16 0x1235 0xEDCB [] []).reg 0).toNat
      + ((st2 tc16 0x1235 0xEDCB [] []).reg 1).toNat := by decide

/-- A5, A4 and L5. -/
theorem witness_SourcesAreReadBeforeTheWrite :
    ((st2 tc16 0x7FFF 0 [] []).reg 0).toNat < 0x8000 ∧ 0x8000 ≤ ((st2 tc16 0x8000 0 [] []).reg 0).toNat ∧
    (st2 tc16 5 0 [(5, 0x42)] []).slot ((st2 tc16 5 0 [(5, 0x42)] []).reg 0) = some 0x42 := by decide

theorem witness_LawsOfAddAndXor :
    (∃ t u, exec (.add 0 1) (st2 tc16 5 7 [] []) = .next t ∧ exec (.add 1 0) (st2 tc16 5 7 [] []) = .next u
      ∧ t.rsp = some .ok ∧ u.rsp = some .ok) ∧
    (st2 tc16 5 0 [] []).reg 1 = 0 ∧
    (∃ t t' u u', exec (.xor 0 1) (st2 tc16 5 7 [] []) = .next t ∧ exec (.xor 0 2) t = .next t' ∧
      exec (.xor 1 2) (st2 tc16 5 7 [] []) = .next u ∧ exec (.xor 0 1) u = .next u' ∧
      (1 : RegIdx) ≠ 0 ∧ (2 : RegIdx) ≠ 0) :=
  ⟨⟨_, _, rfl, rfl, by decide, by decide⟩, by decide,
    ⟨_, _, _, _, rfl, rfl, rfl, rfl, by decide, by decide⟩⟩

/-- L4, T5 and L7: each of the three errors occurs. -/
theorem witness_MemoryErrorsExactlyWhenTheRulesSay :
    (∃ t, exec (.ld 0 1) (st2 tc16 0 0x0100 [] []) = .next t ∧
      t.rsp = some (.err (.addressOutOfRange 0x0100))) ∧
    (∃ t, exec (.st 0 1) (st2 tc8 0x0010 0x0100 [] []) = .next t ∧
      t.rsp = some (.err (.valueOutOfRange 0x0100))) ∧
    (∃ t, exec (.ld 0 1) (st2 tcs 0 0x0010 [] []) = .next t ∧
      t.rsp = some (.err (.memoryEmpty 0x0010))) :=
  ⟨⟨_, rfl, by decide⟩, ⟨_, rfl, by decide⟩, ⟨_, rfl, by decide⟩⟩

/-- T3 in DENSE and T8 in SPARSE. -/
theorem witness_LoadAfterStoreReturnsTheValue :
    (∃ t, exec (.st 0 1) (st2 tc16 0x00FF 0x1234 [] []) = .next t ∧ t.rsp = some .ok) ∧
    (∃ t, exec (.st 0 1) (st2 tcs 0xFFFF 0x1234 [] []) = .next t ∧ t.rsp = some .ok) :=
  ⟨⟨_, rfl, by decide⟩, ⟨_, rfl, by decide⟩⟩

theorem witness_DecodeFailureWritesNothing : decode 0x0291 = .error (.op0OutOfRange 9) := by decide

/-- A12 (in decode) and A3 (in execution). -/
theorem witness_FailedTransactionCommitsNothing :
    (∃ t, process 0x0291 (st2 tc16 0xFFFF 1 [] []) = .next t ∧
      t.rsp = some (.err (.op0OutOfRange 9))) ∧
    (∃ t, process 0x0201 (st2 tc16 0xFFFF 1 [] []) = .next t ∧
      t.rsp = some (.err (.additionOverflow 0xFFFF 1))) :=
  ⟨⟨_, rfl, by decide⟩, ⟨_, rfl, by decide⟩⟩

/-- P4 step 1. -/
theorem witness_FailedTransactionLeavesNoTrace :
    ∃ t, process 0x0001 (st2 tcs 0 0x0010 [] []) = .next t ∧
      t.rsp = some (.err (.memoryEmpty 0x0010)) := ⟨_, rfl, by decide⟩

/-- A register changes, with each opcode that writes one. -/
theorem witness_RegisterWritePort :
    (∃ t, exec (.add 0 1) (st2 tc16 3 4 [] []) = .next t ∧ t.reg 0 ≠ (st2 tc16 3 4 [] []).reg 0) ∧
    (∃ t, exec (.xor 0 1) (st2 tc16 3 4 [] []) = .next t ∧ t.reg 0 ≠ (st2 tc16 3 4 [] []).reg 0) ∧
    (∃ t, exec (.ld 0 1) (st2 tc16 3 0x00FF [] []) = .next t ∧ t.rsp = some .ok) :=
  ⟨⟨_, rfl, by decide⟩, ⟨_, rfl, by decide⟩, ⟨_, rfl, by decide⟩⟩

/-- T3, and a word that stores nothing. -/
theorem witness_MemoryWriteEnable :
    (∃ t, process 0x0101 (st2 tc16 0x00FF 0x1234 [] []) = .next t ∧ t.rsp = some .ok ∧
      decode 0x0101 = .ok (.st 0 1)) ∧
    (∃ t, process 0x0101 (st2 tc16 0x0100 0x1234 [] []) = .next t ∧ t.rsp ≠ some .ok) :=
  ⟨⟨_, rfl, by decide, by decide⟩, ⟨_, rfl, by decide⟩⟩

/-- A register changes, and a slot changes. -/
theorem witness_OneElementWrittenPerTransaction :
    (∃ t, exec (.add 0 1) (st2 tc16 3 4 [] []) = .next t ∧ t.reg 0 ≠ (st2 tc16 3 4 [] []).reg 0) ∧
    (∃ t, exec (.st 0 1) (st2 tc16 0x00FF 4 [] []) = .next t ∧
      t.slot 0x00FF ≠ (st2 tc16 0x00FF 4 [] []).slot 0x00FF) :=
  ⟨⟨_, rfl, by decide⟩, ⟨_, rfl, by decide⟩⟩

/-- Two states that differ in the held response and in the host's moves. -/
theorem witness_ResultDependsOnConfigStateAndWord :
    ∃ s s' t t' : State, s.config = s'.config ∧ s.regs = s'.regs ∧ s.mem = s'.mem ∧ s.rsp ≠ s'.rsp ∧
      process 0x0201 s = .next t ∧ process 0x0201 s' = .next t' :=
  ⟨st2 tc16 3 4 [] [], { st2 tc16 3 4 [] [.takeResponse] with rsp := some .ok }, _, _,
    rfl, rfl, rfl, by decide, rfl, rfl⟩

/-- Two stores to one address with an ADD between them, the last wins (T10); a listed slot; L9's
address; a SPARSE load of an address that is not stored. -/
theorem witness_LoadsSeeTheMostRecentStore :
    (∃ t, processAll [0x0101, 0x0211, 0x0101] (st2 tc16 0x0010 0x0010 [] []) = .next t) ∧
    lastStored 0x0010 [0x0101, 0x0211, 0x0101] (st2 tc16 0x0010 0x0010 [] []) = some 0x0020 ∧
    (st2 tc16 0 0x0010 [(0x10, 0xBEEF)] []).slot
      (loadAddress (st2 tc16 0 0x0010 [(0x10, 0xBEEF)] []) 1) = some 0xBEEF ∧
    (0xFFFF : Word).toNat < ({ tc16 with memSlots := 65536 } : Config).memSlots ∧
    (st2 tcs 0 0xFFFF [] []).slot (loadAddress (st2 tcs 0 0xFFFF [] []) 1) = none :=
  ⟨⟨_, rfl⟩, by decide, by decide, by decide, by decide⟩

theorem witness_StepRunsTheDecodedInstruction :
    legalConfig tc16 = true ∧ (st2 tc16 3 4 [] [.word 0x0201]).phase = .idle ∧
    (st2 tc16 3 4 [] [.word 0x0201]).host = [.word 0x0201] ∧ decode 0x0201 = .ok (.add 0 1) ∧
    (st2 tc16 3 4 [] [.word 0x0480]).host = [.word 0x0480] ∧
    decode 0x0480 = .error (.invalidOpCode 0x04) := by decide

theorem witness_FetchedWordRunsNext :
    legalConfig State.reset.config = true ∧ decodeTableWord 16 0x0201 = some (.add 0 1) := by decide

/-- P1's first two words, and a move after them. -/
theorem witness_ProgramIsTheCompositionOfItsTransactions :
    (st2 tc16 3 4 [] [.word 0x0201, .word 0x0301, .takeResponse]).Sound ∧
    (st2 tc16 3 4 [] [.word 0x0201, .word 0x0301, .takeResponse]).host
      = [0x0201, 0x0301].map HostMove.word ++ [.takeResponse] :=
  ⟨sound_st2 (by decide) (by decide), rfl⟩

theorem witness_StepKeepsTheMachineSound :
    (st2 tc16 0x00FF 4 [(3, 7)] [.word 0x0101]).Sound ∧
    ∃ t, step (st2 tc16 0x00FF 4 [(3, 7)] [.word 0x0101]) = .next t ∧ t.mem = [(3, 7), (0xFF, 4)] :=
  ⟨sound_st2 (by decide) (by decide), ⟨_, rfl, by decide⟩⟩

theorem witness_ResetIsSound :
    legalConfig tc8 = true ∧ legalConfig tcs = true ∧
    legalConfig { tc16 with memSlots := 1 } = true ∧ legalConfig { tc16 with memSlots := 65536 } = true := by
  decide

/-- P6's start: the host presents a word and constructs a DENSE engine with REG_RESET = ZERO. -/
theorem witness_ZeroResetStaysZero :
    legalConfig tc16 = true ∧ tc16.memOrg = .dense ∧ tc16.regReset = .zero ∧
    (st2 tc16 0 0 [] [.word 0x0101, .reset tc16]).AllZero ∧
    (∃ t, step (st2 tc16 0 0 [] [.word 0x0101, .reset tc16]) = .next t) :=
  ⟨by decide, rfl, rfl,
    ⟨by decide, rfl, by decide, fun a ha => by
      have : a.toNat < 256 := ha
      simp [State.slot, addressCheck, Memory.content, Memory.lookup, Memory.unlisted, slotPart, st2, tc16,
        this],
      fun _ he => by simp [st2] at he, by simp [st2, HostMove.denseZero, tc16]⟩,
    ⟨_, rfl⟩⟩

theorem witness_EveryTransactionAnswers :
    (st2 tc16 0 0 [] [.word 0xFFFF]).Sound ∧ (st2 tc16 0 0 [] [.word 0xFFFF]).host = [.word 0xFFFF] :=
  ⟨sound_st2 (by decide) (by decide), rfl⟩

/-- The three illegal kinds at their boundaries, presented to a sound engine. -/
theorem witness_IllegalConfigurationIsRefused :
    (({ tcs with slotWidth := .bits8 } : Config).memOrg = .sparse ∧
      ({ tcs with slotWidth := .bits8 } : Config).slotWidth = .bits8) ∧
    ({ tc16 with memSlots := 0 } : Config).memSlots < 1 ∧
    65536 < ({ tc16 with memSlots := 65537 } : Config).memSlots ∧
    (st2 tc16 0 0 [] [.reset { tc16 with memSlots := 0 }]).Sound ∧
    (st2 tc16 0 0 [] [.resetInFlight 0x0201 { tc16 with memSlots := 65537 }]).Sound :=
  ⟨⟨rfl, rfl⟩, by decide, by decide, sound_st2 (by decide) (by decide), sound_st2 (by decide) (by decide)⟩

theorem witness_OnlyTransactionsAndResetChangeState :
    (∃ t, step (st2 tc16 3 4 [] [.word 0x0201]) = .next t ∧ t.regs ≠ (st2 tc16 3 4 [] []).regs) ∧
    (∃ t, step (st2 tc16 3 4 [] [.reset tcs]) = .next t ∧ t.config ≠ tc16) :=
  ⟨⟨_, rfl, by decide⟩, ⟨_, rfl, by decide⟩⟩

theorem witness_StateAfterReset :
    (legalConfig tc16 = true ∧ tc16.regReset = .zero ∧ tc16.memOrg = .dense ∧
      (0x00FF : Word).toNat < tc16.memSlots) ∧
    (legalConfig { tcs with regReset := .indexX16 } = true ∧ tcs.memOrg = .sparse) := by decide

theorem witness_RstConstructsAFreshEngine :
    (st2 tc16 3 4 [(3, 7)] [.reset tcs]).Sound ∧
    (st2 tc16 3 4 [(3, 7)] [.resetInFlight 0x0101 tc8]).Sound ∧
    legalConfig tcs = true ∧ legalConfig tc8 = true :=
  ⟨sound_st2 (by decide) (by decide), sound_st2 (by decide) (by decide), by decide, by decide⟩

theorem witness_WaitsInIdleForTheHost : (st2 tc16 3 4 [] []).Sound ∧
    (st2 tc16 3 4 [] []).host = [] ∧ legalConfig tcs = true :=
  ⟨sound_st2 (by decide) (by decide), rfl, by decide⟩

theorem witness_TakingTheResponseChangesNothingElse :
    ∃ s : State, s.Sound ∧ s.rspValid = true ∧ s.host = [.takeResponse] :=
  ⟨{ st2 tc16 3 4 [] [.takeResponse] with rsp := some .ok },
    ⟨by decide, by decide, rfl, fun _ he => by simp at he⟩, rfl, rfl⟩

theorem witness_NoHostMoveInFlight :
    legalConfig (st2 tc16 3 4 [] []).accept.config = true ∧
    (st2 tc16 3 4 [] []).accept.reqReady = false := by decide

theorem witness_ResponseSignalsOfEachOutcome :
    ({ st2 tc16 3 4 [] [] with rsp := some .ok } : State).rsp = some .ok ∧
    ({ st2 tc16 3 4 [] [] with rsp := some (.err (.memoryEmpty 5)) } : State).rsp
      = some (.err (.memoryEmpty 5)) := by decide

/-- R3 and R4 of section 2.6, a SPARSE slot and its absence, and a state in flight. -/
theorem witness_InspectionPortShowsTheState :
    ((st2 tc16 3 4 [] []).reqReady = true ∧ tc16.memOrg = .dense ∧ (0x00FF : Word).toNat < tc16.memSlots ∧
      tc16.memSlots ≤ (0x0100 : Word).toNat) ∧
    ((st2 tcs 3 4 [(5, 0)] []).reqReady = true ∧ tcs.memOrg = .sparse ∧
      Memory.lookup (st2 tcs 3 4 [(5, 0)] []).mem (5 : Word).toNat = some 0 ∧
      Memory.lookup (st2 tcs 3 4 [(5, 0)] []).mem (6 : Word).toNat = none) ∧
    (st2 tc16 3 4 [] []).accept.reqReady = false := by decide

end Sys2Proof.Tests
end

section
/-!
SUPPORT. What a transaction and a step can do, each said once as an inversion lemma: every error a
transaction reports is one its configuration can raise (R104, R106), a transaction ends in one of three
ways, and a step is one of four moves.
-/

namespace Sys2Proof.Machine

/-! ### The errors each check can raise -/

/-- R97..R99: a decode error carries the field that failed its check. -/
theorem errorPossible_of_decode {w : Word} {e : DecodeError} (c : Config)
    (h : decode w = .error e) : errorPossible c (decodeErrorKind e) := by
  unfold decode decodeFields at h
  split at h
  next hop =>
    obtain rfl := Except.error.inj h
    exact opcodeOfByte_eq_none.mp hop
  next =>
    split at h
    next h0 =>
      obtain rfl := Except.error.inj h
      exact validateOperand_eq_none.mp h0
    next =>
      split at h
      next h1 =>
        obtain rfl := Except.error.inj h
        exact validateOperand_eq_none.mp h1
      next => cases h

/-- R101, R103. -/
theorem errorPossible_of_memRead {c : Config} {m : Memory} {a : Word} {e : ErrorKind}
    (h : memRead c m a = .error e) : errorPossible c e := by
  obtain ⟨hd, ha, hr⟩ | ⟨-, -, hr⟩ | ⟨hs, -, hr⟩ | ⟨-, v, -, hr⟩ := memRead_cases c m a <;> rw [hr] at h
  · obtain rfl := Except.error.inj h
    exact ⟨hd, ha⟩
  · cases h
  · obtain rfl := Except.error.inj h
    exact hs
  · cases h

/-- R44: only a value above 0xFF, and only in 8-bit slots, can fail to fit its slot. -/
theorem slotWidth_of_value_too_wide {sw : SlotWidth} {v : Word} (h : 2 ^ slotBits sw ≤ v.toNat) :
    sw = .bits8 ∧ 0xFF < v.toNat := by
  cases sw with
  | bits8 => exact ⟨rfl, h⟩
  | bits16 => exact absurd v.isLt (Nat.not_lt.mpr h)

/-- R101, R102. -/
theorem errorPossible_of_memWrite {c : Config} {m : Memory} {a v : Word} {e : ErrorKind}
    (h : memWrite c m a v = .error e) : errorPossible c e := by
  obtain ⟨hd, ha, hw⟩ | ⟨hd, -, hv, hw⟩ | ⟨-, -, hw⟩ := memWrite_cases c m a v <;> rw [hw] at h
  · obtain rfl := Except.error.inj h
    exact ⟨hd, ha⟩
  · obtain rfl := Except.error.inj h
    exact ⟨hd, slotWidth_of_value_too_wide hv⟩
  · cases h

/-- R100. -/
theorem errorPossible_of_aluAdd {a b : Word} {e : ErrorKind} (c : Config)
    (h : aluAdd a b = .error e) : errorPossible c e := by
  obtain ⟨hsum, ha⟩ | ⟨-, v, ha, -⟩ := aluAdd_cases a b <;> rw [ha] at h
  · obtain rfl := Except.error.inj h
    exact hsum
  · cases h

/-! ### How a transaction ends -/

/-- The three ends of a transaction from s: an error the configuration can raise, with nothing
committed; one register written; or the memory a checked write gave. -/
inductive TransactionEnds (s : State) : State → Prop where
  | error {e : ErrorKind} (he : errorPossible s.config e) : TransactionEnds s (s.respond (.err e))
  | register (r : RegIdx) (v : Word) : TransactionEnds s ((s.writeReg r v).respond .ok)
  | memory {a v : Word} {m : Memory} (hm : memWrite s.config s.mem a v = .ok m) :
      TransactionEnds s (State.respond { s with mem := m } .ok)

theorem exec_ends {i : Instr} {s t : State} (h : exec i s = .next t) : TransactionEnds s t := by
  cases i with
  | ld d a =>
    simp only [exec, execLd] at h
    cases hr : memRead s.config s.mem (loadAddress s a) with
    | error e => rw [hr] at h; cases h; exact .error (errorPossible_of_memRead hr)
    | ok v => rw [hr] at h; cases h; exact .register d v
  | st a v =>
    simp only [exec, execSt] at h
    cases hw : memWrite s.config s.mem (storeAddress s a) (storeValue s v) with
    | error e => rw [hw] at h; cases h; exact .error (errorPossible_of_memWrite hw)
    | ok m => rw [hw] at h; cases h; exact .memory hw
  | add d a =>
    simp only [exec, execAdd] at h
    cases ha : aluAdd (portA s d) (portB s a) with
    | error e => rw [ha] at h; cases h; exact .error (errorPossible_of_aluAdd _ ha)
    | ok v => rw [ha] at h; cases h; exact .register d v
  | xor d a => cases h; exact .register d _

theorem process_ends {w : Word} {s t : State} (h : process w s = .next t) : TransactionEnds s t := by
  rw [process_eq] at h
  cases hd : decode w with
  | error e => rw [hd] at h; cases h; exact .error (errorPossible_of_decode _ hd)
  | ok i => rw [hd] at h; exact exec_ends h

/-- R22: no transaction writes the configuration. -/
theorem TransactionEnds.config {s t : State} (h : TransactionEnds s t) : t.config = s.config := by
  cases h <;> rfl

/-- R75: a transaction that reports an error ends in the state it began in, but for the response. -/
theorem TransactionEnds.eq_respond_of_err {s t : State} {e : ErrorKind} (h : TransactionEnds s t)
    (he : t.rsp = some (.err e)) : t = s.respond (.err e) := by
  cases h with
  | error => cases he; rfl
  | register | memory => cases he

/-- R31: a transaction that does not answer Ok changes neither registers nor memory. -/
theorem TransactionEnds.ok_or_unchanged {s t : State} (h : TransactionEnds s t) :
    t.rsp = some .ok ∨ (t.regs = s.regs ∧ t.mem = s.mem) := by
  cases h with
  | error => exact .inr ⟨rfl, rfl⟩
  | register | memory => exact .inl rfl

/-- A transaction leaves a sound state, whatever the phase and the response held before it. -/
theorem TransactionEnds.sound {s t : State} (h : TransactionEnds s t) (hc : legalConfig s.config = true)
    (hm : Memory.wf s.config s.mem = true) : t.Sound := by
  cases h with
  | error he => exact ⟨hc, hm, rfl, fun _ h => by cases h; exact he⟩
  | register => exact ⟨hc, hm, rfl, nofun⟩
  | memory hw => exact ⟨hc, memWrite_wf hm hw, rfl, nofun⟩

/-- R71, R76: accepting a word replaces the phase and the response that the transaction before left, so
a response that came before changes nothing of what the word does. -/
theorem process_respond (w : Word) (s : State) (r : Response) :
    process w (s.respond r) = process w s := by
  have haccept : (s.respond r).accept = s.accept := rfl
  unfold process
  rw [haccept]

/-! ### What a step can do -/

/-- R115, R118: the moves by which the host constructs an engine with configuration c. -/
def HostMove.constructs (mv : HostMove) (c : Config) : Prop :=
  mv = .reset c ∨ ∃ w, mv = .resetInFlight w c

theorem construct_eq_next {c : Config} {s t : State} (h : construct c s = .next t) :
    legalConfig c = true ∧ t = { State.resetWith c with host := s.host } := by
  unfold construct at h
  split at h
  next hc => cases h; exact ⟨hc, rfl⟩
  next => cases h

/-- A step that leads from s to t: the block waits, runs a word's transaction, gives up the held
response, or is constructed afresh. -/
inductive Steps (s : State) : State → Prop where
  | wait (hh : s.host = []) : Steps s s
  | word {w : Word} {rest : List HostMove} {t : State} (hh : s.host = .word w :: rest)
      (ht : TransactionEnds { s with host := rest } t) : Steps s t
  | takeResponse {rest : List HostMove} (hh : s.host = .takeResponse :: rest) :
      Steps s { s with host := rest, rsp := none }
  | construct {mv : HostMove} {c : Config} {rest : List HostMove} (hh : s.host = mv :: rest)
      (hmv : mv.constructs c) (hc : legalConfig c = true) :
      Steps s { State.resetWith c with host := rest }

/-- A step that answers was made between transactions, under a legal configuration. -/
theorem legal_idle_of_step {s t : State} (h : step s = .next t) :
    legalConfig s.config = true ∧ s.phase = .idle := by
  unfold step advance at h
  split at h
  next hc =>
    cases hp : s.phase with
    | idle => exact ⟨hc, rfl⟩
    | decoded | executed => simp [hp] at h
  next => cases h

theorem steps_of_step {s t : State} (h : step s = .next t) : Steps s t := by
  obtain ⟨hc, hp⟩ := legal_idle_of_step h
  unfold step at h
  rw [advance_eq hc hp] at h
  match hh : s.host with
  | [] => rw [hh] at h; cases h; exact .wait hh
  | .word w :: rest => rw [hh] at h; exact .word hh (process_ends h)
  | .takeResponse :: rest => rw [hh] at h; cases h; exact .takeResponse hh
  | .reset c :: rest =>
    rw [hh] at h
    obtain ⟨hlegal, rfl⟩ := construct_eq_next h
    exact .construct hh (.inl rfl) hlegal
  | .resetInFlight w c :: rest =>
    rw [hh] at h
    obtain ⟨hlegal, rfl⟩ := construct_eq_next h
    exact .construct hh (.inr ⟨w, rfl⟩) hlegal

/-! ### The invariant -/

/-- R24..R28: construction with a legal configuration gives a sound engine, whatever the host's moves. -/
theorem sound_construct {c : Config} (hc : legalConfig c = true) (moves : List HostMove) :
    State.Sound { State.resetWith c with host := moves } :=
  ⟨hc, (Memory.wf_iff c []).mpr ⟨.nil, nofun⟩, rfl, nofun⟩

/-- The machine's invariant is kept by every move of the host. -/
theorem Steps.sound {s t : State} (h : Steps s t) (hs : s.Sound) : t.Sound := by
  cases h with
  | wait => exact hs
  | word _ ht => exact ht.sound hs.legal hs.memory
  | takeResponse => exact ⟨hs.legal, hs.memory, hs.idle, nofun⟩
  | construct _ _ hc => exact sound_construct hc _

/-- Settles O32, by the host's move and, for a word, by the end of its transaction. -/
theorem stepKeepsTheMachineSound : Obligations.StepKeepsTheMachineSound :=
  fun _ _ hs h => (steps_of_step h).sound hs

/-- Settles O23: a failed transaction leaves only its response, and accepting the next word removes
that. -/
theorem failedTransactionLeavesNoTrace : Obligations.FailedTransactionLeavesNoTrace := by
  intro w s t e h he
  obtain rfl := (process_ends h).eq_respond_of_err he
  exact ⟨fun w' => process_respond w' s _, (process_respond w s _).trans h⟩

/-- R31: the moves by which a step can change the registers or the memory. -/
theorem Steps.regs_mem_change {s t : State} (h : Steps s t) (hne : t.regs ≠ s.regs ∨ t.mem ≠ s.mem) :
    ∃ mv rest, s.host = mv :: rest ∧
      ((∃ w, mv = .word w ∧ t.rsp = some .ok) ∨ ∃ c, mv.constructs c) := by
  cases h with
  | wait | takeResponse => simp at hne
  | word hh ht =>
    obtain hok | ⟨hregs, hmem⟩ := ht.ok_or_unchanged
    · exact ⟨_, _, hh, .inl ⟨_, rfl, hok⟩⟩
    · simp [hregs, hmem] at hne
  | construct hh hmv => exact ⟨_, _, hh, .inr ⟨_, hmv⟩⟩

/-- R22: the moves by which a step can change the configuration. -/
theorem Steps.config_change {s t : State} (h : Steps s t) (hne : t.config ≠ s.config) :
    ∃ mv c rest, s.host = mv :: rest ∧ mv.constructs c := by
  cases h with
  | wait | takeResponse => exact absurd rfl hne
  | word _ ht => exact absurd ht.config hne
  | construct hh hmv => exact ⟨_, _, _, hh, hmv⟩

/-- Settles O37, by the host's move. -/
theorem onlyTransactionsAndResetChangeState : Obligations.OnlyTransactionsAndResetChangeState := by
  intro s t h
  refine ⟨fun hne => ?_, fun hne => ?_⟩
  · obtain ⟨mv, rest, hh, hword | ⟨c, hreset | ⟨w, hreset⟩⟩⟩ := (steps_of_step h).regs_mem_change hne
    · exact ⟨mv, rest, hh, .inl hword⟩
    · exact ⟨mv, rest, hh, .inr (.inl ⟨c, hreset⟩)⟩
    · exact ⟨mv, rest, hh, .inr (.inr ⟨w, c, hreset⟩)⟩
  · obtain ⟨mv, c, rest, hh, rfl | ⟨w, rfl⟩⟩ := (steps_of_step h).config_change hne
    · exact ⟨c, rest, .inl hh⟩
    · exact ⟨c, rest, .inr ⟨w, hh⟩⟩

end Sys2Proof.Machine
end

section
/-!
SUPPORT. The memory family (20_memory.md): what LD and ST can answer, said once each in the terms of the
two checkers and of the addressed slot, and the slot as the most recent successful store left it (R51).
-/

namespace Sys2Proof.Machine

/-! ### The three frames, each met by one end of a transaction -/

theorem commitsNothing_respond (s : State) (e : ErrorKind) : CommitsNothing s (s.respond (.err e)) e :=
  ⟨fun _ => rfl, fun _ => rfl, rfl, rfl, rfl, rfl⟩

theorem writesOnlyReg_respond (s : State) (r : RegIdx) (v : Word) :
    WritesOnlyReg s ((s.writeReg r v).respond .ok) r v :=
  ⟨by simp, fun _ hq => by simp [State.reg_writeReg_of_ne, hq], fun _ => rfl, rfl, rfl, rfl, rfl⟩

theorem writesOnlySlot_respond {s : State} {a v : Word} (ha : addressCheck s.config a = none)
    (hv : valueCheck s.config v = none) :
    WritesOnlySlot s
      (State.respond { s with mem := Memory.store s.config s.mem a.toNat v } .ok) a v where
  written := by simp [State.slot_store s a a v ha hv]
  others b hb := by simp [State.slot_store s a b v ha hv, hb]
  registers _ := rfl
  config := rfl
  response := rfl
  idle := rfl
  host := rfl

/-! ### What a slot is -/

/-- The slot is what the checked read gives, so LD and the model's read of one location agree. -/
theorem memRead_eq_ok_iff {s : State} {a v : Word} :
    memRead s.config s.mem a = .ok v ↔ s.slot a = some v := by
  unfold memRead State.slot
  cases addressCheck s.config a with
  | some e => simp
  | none => cases Memory.content s.config s.mem a <;> simp

theorem State.slot_congr {s t : State} (hc : t.config = s.config) (hm : t.mem = s.mem) (a : Word) :
    t.slot a = s.slot a := by
  simp only [State.slot, hc, hm]

/-- R24, R26: a DENSE slot in range holds 0 after reset. -/
theorem State.slot_resetWith_dense {c : Config} (hd : c.memOrg = .dense) {a : Word}
    (ha : a.toNat < c.memSlots) : (State.resetWith c).slot a = some 0 := by
  simp [State.slot, State.resetWith, addressCheck, Memory.content, Memory.lookup, Memory.unlisted,
    slotPart, hd, ha]

/-- R25, R26: after reset dom(Mem) is empty. -/
theorem State.slot_resetWith_sparse {c : Config} (hs : c.memOrg = .sparse) (a : Word) :
    (State.resetWith c).slot a = none := by
  simp [State.slot, State.resetWith, addressCheck, Memory.content, Memory.lookup, Memory.unlisted, hs]

/-! ### What each instruction can answer -/

theorem exec_ld_of_memRead_error {s : State} {d a : RegIdx} {e : ErrorKind}
    (h : memRead s.config s.mem (loadAddress s a) = .error e) :
    exec (.ld d a) s = .next (s.respond (.err e)) := by
  simp only [exec, execLd, h, raise]

theorem exec_ld_of_memRead_ok {s : State} {d a : RegIdx} {v : Word}
    (h : memRead s.config s.mem (loadAddress s a) = .ok v) :
    exec (.ld d a) s = .next ((s.writeReg d v).respond .ok) := by
  simp only [exec, execLd, h, commitReg]

/-- R86 with R40 and R42. -/
theorem exec_ld_cases {s t : State} {d a : RegIdx} (h : exec (.ld d a) s = .next t) :
    (s.config.memOrg = .dense ∧ s.config.memSlots ≤ (loadAddress s a).toNat ∧
      t = s.respond (.err (.addressOutOfRange (loadAddress s a)))) ∨
    (s.config.memOrg = .dense ∧ (loadAddress s a).toNat < s.config.memSlots ∧
      t = (s.writeReg d
        (slotPart s.config ((Memory.lookup s.mem (loadAddress s a).toNat).getD 0))).respond .ok) ∨
    (s.config.memOrg = .sparse ∧ Memory.lookup s.mem (loadAddress s a).toNat = none ∧
      t = s.respond (.err (.memoryEmpty (loadAddress s a)))) ∨
    (s.config.memOrg = .sparse ∧ ∃ v, Memory.lookup s.mem (loadAddress s a).toNat = some v ∧
      t = (s.writeReg d v).respond .ok) := by
  obtain ⟨hd, ha, hr⟩ | ⟨hd, ha, hr⟩ | ⟨hs, hl, hr⟩ | ⟨hs, v, hl, hr⟩ :=
    memRead_cases s.config s.mem (loadAddress s a)
  · rw [exec_ld_of_memRead_error hr] at h; cases h
    exact .inl ⟨hd, ha, rfl⟩
  · rw [exec_ld_of_memRead_ok hr] at h; cases h
    exact .inr (.inl ⟨hd, ha, rfl⟩)
  · rw [exec_ld_of_memRead_error hr] at h; cases h
    exact .inr (.inr (.inl ⟨hs, hl, rfl⟩))
  · rw [exec_ld_of_memRead_ok hr] at h; cases h
    exact .inr (.inr (.inr ⟨hs, v, hl, rfl⟩))

/-- R87 with R41 and R43. -/
theorem exec_st_cases {s t : State} {a v : RegIdx} (h : exec (.st a v) s = .next t) :
    (s.config.memOrg = .dense ∧ s.config.memSlots ≤ (storeAddress s a).toNat ∧
      t = s.respond (.err (.addressOutOfRange (storeAddress s a)))) ∨
    (s.config.memOrg = .dense ∧ (storeAddress s a).toNat < s.config.memSlots ∧
      2 ^ slotBits s.config.slotWidth ≤ (storeValue s v).toNat ∧
      t = s.respond (.err (.valueOutOfRange (storeValue s v)))) ∨
    (addressCheck s.config (storeAddress s a) = none ∧ valueCheck s.config (storeValue s v) = none ∧
      t = State.respond { s with
        mem := Memory.store s.config s.mem (storeAddress s a).toNat (storeValue s v) } .ok) := by
  simp only [exec, execSt] at h
  obtain ⟨hd, ha, hw⟩ | ⟨hd, ha, hv, hw⟩ | ⟨ha, hv, hw⟩ :=
    memWrite_cases s.config s.mem (storeAddress s a) (storeValue s v)
  · rw [hw] at h; cases h
    exact .inl ⟨hd, ha, rfl⟩
  · rw [hw] at h; cases h
    exact .inr (.inl ⟨hd, ha, hv, rfl⟩)
  · rw [hw] at h; cases h
    exact .inr (.inr ⟨ha, hv, rfl⟩)

/-- R90, R100: the two answers of ADD. -/
theorem exec_add_rsp {s t : State} {d a : RegIdx} (h : exec (.add d a) s = .next t) :
    t.rsp = some (.err (.additionOverflow (portA s d) (portB s a))) ∨ t.rsp = some .ok := by
  simp only [exec, execAdd] at h
  obtain ⟨-, ha⟩ | ⟨-, v, ha, -⟩ := aluAdd_cases (portA s d) (portB s a)
  · rw [ha] at h; cases h
    exact .inl rfl
  · rw [ha] at h; cases h
    exact .inr rfl

/-- R46: an ST that answers Ok has passed both checks and writes its slot. -/
theorem exec_st_of_ok {s t : State} {a v : RegIdx} (h : exec (.st a v) s = .next t)
    (hok : t.rsp = some .ok) : WritesOnlySlot s t (storeAddress s a) (storeValue s v) := by
  obtain ⟨-, -, rfl⟩ | ⟨-, -, -, rfl⟩ | ⟨ha, hv, rfl⟩ := exec_st_cases h
  · cases hok
  · cases hok
  · exact writesOnlySlot_respond ha hv

/-- LD answers with what the slot at its address holds. -/
theorem exec_ld_of_slot {s : State} (d : RegIdx) {a : RegIdx} {v : Word}
    (h : s.slot (loadAddress s a) = some v) :
    ∃ t, exec (.ld d a) s = .next t ∧ WritesOnlyReg s t d v :=
  ⟨_, exec_ld_of_memRead_ok (memRead_eq_ok_iff.mpr h), writesOnlyReg_respond s d v⟩

/-- R103: a SPARSE load where there is no slot. -/
theorem exec_ld_sparse_of_no_slot {s : State} (d : RegIdx) {a : RegIdx} (hs : s.config.memOrg = .sparse)
    (h : s.slot (loadAddress s a) = none) :
    ∃ t, exec (.ld d a) s = .next t ∧ CommitsNothing s t (.memoryEmpty (loadAddress s a)) := by
  obtain ⟨hd, -⟩ | ⟨hd, -⟩ | ⟨-, -, hr⟩ | ⟨-, v, -, hr⟩ :=
    memRead_cases s.config s.mem (loadAddress s a)
  · simp [hs] at hd
  · simp [hs] at hd
  · exact ⟨_, exec_ld_of_memRead_error hr, commitsNothing_respond s _⟩
  · simp [memRead_eq_ok_iff.mp hr] at h

/-! ### One transaction -/

theorem exec_of_process {w : Word} {i : Instr} {s t : State} (hd : decode w = .ok i)
    (h : process w s = .next t) : exec i s = .next t := by
  rwa [process_eq, hd] at h

theorem Instr.eq_ld_of_opcode {i : Instr} (h : i.opcode = .ld) : i = .ld i.op0 i.op1 := by
  cases i with
  | ld => rfl
  | st | add | xor => cases h

theorem Instr.eq_st_of_opcode {i : Instr} (h : i.opcode = .st) : i = .st i.op0 i.op1 := by
  cases i with
  | st => rfl
  | ld | add | xor => cases h

/-- R46: without a store that answers Ok the memory stays as it is, dom(Mem) included. -/
theorem process_mem_of_no_store {w : Word} {s t : State} (h : process w s = .next t)
    (hno : ∀ n m, decode w = .ok (.st n m) → t.rsp ≠ some .ok) : t.mem = s.mem := by
  cases hd : decode w with
  | error e => rw [process_eq, hd] at h; cases h; rfl
  | ok i =>
    have hx := exec_of_process hd h
    obtain ⟨e, he⟩ | ⟨-, v, he⟩ | ⟨hop, -, -, he⟩ := exec_cases i s <;> rw [he] at hx <;> cases hx
    · rfl
    · rfl
    · exact absurd rfl (hno i.op0 i.op1 (hd.trans (congrArg _ (Instr.eq_st_of_opcode hop))))

/-- Settles O25, by whether the transaction is an ST that answers Ok. -/
theorem memoryWriteEnable : Obligations.MemoryWriteEnable := by
  intro w s t h
  refine ⟨fun n m hd hok => ?_, process_mem_of_no_store h⟩
  have hw := exec_st_of_ok (exec_of_process hd h) hok
  exact ⟨hw.written, hw.others⟩

/-! ### R51: the most recent store -/

/-- The only transaction that counts as a store is that of an ST that answers Ok. -/
theorem storedAt_cases (a w : Word) (s t : State) :
    (∃ n m, decode w = .ok (.st n m) ∧ t.rsp = some .ok ∧
      storedAt a w s t = if storeAddress s n = a then some (storeValue s m) else none) ∨
    ((∀ n m, decode w = .ok (.st n m) → t.rsp ≠ some .ok) ∧ storedAt a w s t = none) := by
  unfold storedAt
  cases hd : decode w with
  | error => exact .inr ⟨nofun, rfl⟩
  | ok i =>
    cases i with
    | st n m =>
      by_cases hok : t.rsp = some .ok
      · exact .inl ⟨n, m, rfl, hok, if_congr (and_iff_right hok) rfl rfl⟩
      · exact .inr ⟨fun _ _ _ => hok, by simp [hok]⟩
    | ld | add | xor => exact .inr ⟨nofun, rfl⟩

/-- One transaction leaves in a slot what it stored there, or what the slot held. -/
theorem slot_process {w : Word} {s t : State} (a : Word) (h : process w s = .next t) :
    t.slot a = (storedAt a w s t).or (s.slot a) := by
  obtain ⟨hstore, hnone⟩ := memoryWriteEnable w s t h
  obtain ⟨n, m, hd, hok, hst⟩ | ⟨hno, hst⟩ := storedAt_cases a w s t
  · obtain ⟨hwritten, hothers⟩ := hstore n m hd hok
    rw [hst]
    split
    next ha => subst ha; exact hwritten
    next ha => exact hothers a (Ne.symm ha)
  · simpa [hst] using State.slot_congr (process_ends h).config (hnone hno) a

theorem slot_processAll (ws : List Word) {s t : State} (a : Word) (h : processAll ws s = .next t) :
    t.slot a = (lastStored a ws s).or (s.slot a) := by
  induction ws generalizing s with
  | nil => cases h; rfl
  | cons w ws ih =>
    obtain ⟨u, hu⟩ := process_next w s
    simp only [processAll, hu] at h
    calc t.slot a = (lastStored a ws u).or (u.slot a) := ih h
      _ = (lastStored a ws u).or ((storedAt a w s u).or (s.slot a)) := by rw [slot_process a hu]
      _ = (lastStored a (w :: ws) s).or (s.slot a) := by simp only [lastStored, hu, Option.or_assoc]

/-- Settles O28, by induction on the words, with R46's write enable for each transaction. -/
theorem loadsSeeTheMostRecentStore : Obligations.LoadsSeeTheMostRecentStore :=
  ⟨fun ws _ _ a h => slot_processAll ws a h,
    fun _ d _ _ h => exec_ld_of_slot d h,
    fun _ _ hd ha => State.slot_resetWith_dense hd ha,
    fun _ d _ hs h => exec_ld_sparse_of_no_slot d hs h,
    fun _ a hs => State.slot_resetWith_sparse hs a⟩

/-- Settles O20: the store writes no register, so the load's address is the store's. -/
theorem loadAfterStoreReturnsTheValue : Obligations.LoadAfterStoreReturnsTheValue := by
  intro s t a v d h hok
  have hw := exec_st_of_ok h hok
  have haddr : loadAddress t a = storeAddress s a := hw.registers a
  exact exec_ld_of_slot d (haddr ▸ hw.written)

/-! ### The checkers -/

/-- R39 on loads. -/
theorem exec_ld_addressCheck {s t : State} {d r : RegIdx} (h : exec (.ld d r) s = .next t) :
    (s.config.memOrg = .dense → ((loadAddress s r).toNat < s.config.memSlots ↔
      t.rsp ≠ some (.err (.addressOutOfRange (loadAddress s r))))) ∧
    (s.config.memOrg = .sparse → (t.rsp = some .ok ↔
      ∃ v, Memory.lookup s.mem (loadAddress s r).toNat = some v)) := by
  obtain ⟨hd, ha, rfl⟩ | ⟨hd, ha, rfl⟩ | ⟨hs, hl, rfl⟩ | ⟨hs, v, hl, rfl⟩ := exec_ld_cases h
  · simp [hd, ha]
  · simp [hd, ha]
  · simp [hs, hl]
  · simp [hs, hl]

/-- R39 on stores. -/
theorem exec_st_addressCheck {s t : State} {r v : RegIdx} (h : exec (.st r v) s = .next t) :
    (s.config.memOrg = .dense → ((storeAddress s r).toNat < s.config.memSlots ↔
      t.rsp ≠ some (.err (.addressOutOfRange (storeAddress s r))))) ∧
    (s.config.memOrg = .sparse → t.rsp = some .ok) := by
  obtain ⟨hd, ha, rfl⟩ | ⟨hd, ha, -, rfl⟩ | ⟨ha, -, rfl⟩ := exec_st_cases h
  · simp [hd, ha]
  · simp [hd, ha]
  · simpa using (addressCheck_eq_none _ _).mp ha

/-- Settles O12, for LD and for ST. -/
theorem addressCheckBoundsEveryAccess : Obligations.AddressCheckBoundsEveryAccess := by
  rintro s t i _ (⟨hop, rfl⟩ | ⟨hop, rfl⟩) h
  · obtain ⟨hdense, hsparse⟩ := exec_ld_addressCheck (Instr.eq_ld_of_opcode hop ▸ h)
    exact ⟨hdense, fun _ hst => by simp [hop] at hst, fun hs _ => hsparse hs⟩
  · obtain ⟨hdense, hsparse⟩ := exec_st_addressCheck (Instr.eq_st_of_opcode hop ▸ h)
    exact ⟨hdense, fun hs _ => hsparse hs, fun _ hld => by simp [hop] at hld⟩

/-- R44: the value checker decides the answer of a DENSE ST whose address is in range. -/
theorem exec_st_dense_in_range {s t : State} {a v : RegIdx} (h : exec (.st a v) s = .next t)
    (hd : s.config.memOrg = .dense) (ha : (storeAddress s a).toNat < s.config.memSlots) :
    ((storeValue s v).toNat < 2 ^ slotBits s.config.slotWidth ∧ t.rsp = some .ok) ∨
    (2 ^ slotBits s.config.slotWidth ≤ (storeValue s v).toNat ∧
      t = s.respond (.err (.valueOutOfRange (storeValue s v)))) := by
  obtain ⟨-, hge, -⟩ | ⟨-, -, hv, ht⟩ | ⟨-, hv, rfl⟩ := exec_st_cases h
  · exact absurd ha (Nat.not_lt.mpr hge)
  · exact .inr ⟨hv, ht⟩
  · exact .inl ⟨(valueCheck_eq_none _ _).mp hv hd, rfl⟩

/-- R44, R102: ST alone reports ValueOutOfRange. -/
theorem opcode_of_valueOutOfRange {i : Instr} {s t : State} {w : Word} (h : exec i s = .next t)
    (ht : t.rsp = some (.err (.valueOutOfRange w))) : i.opcode = .st := by
  cases i with
  | st => rfl
  | ld d a =>
    obtain ⟨-, -, rfl⟩ | ⟨-, -, rfl⟩ | ⟨-, -, rfl⟩ | ⟨-, v, -, rfl⟩ := exec_ld_cases h <;> cases ht
  | add d a => obtain hr | hr := exec_add_rsp h <;> rw [hr] at ht <;> cases ht
  | xor d a => cases h; cases ht

/-- An error a transaction reports is one its configuration can raise. -/
theorem TransactionEnds.errorPossible {s t : State} {e : ErrorKind} (h : TransactionEnds s t)
    (ht : t.rsp = some (.err e)) : errorPossible s.config e := by
  cases h with
  | error he => cases ht; exact he
  | register | memory => cases ht

/-- Settles O13, by slot width; that only a DENSE ST reports the error is `opcode_of_valueOutOfRange`
with R102's circumstances. -/
theorem valueCheckNeverTruncates : Obligations.ValueCheckNeverTruncates := by
  refine ⟨fun s t a v h hd ha => ?_, fun i s t w h ht =>
    ⟨opcode_of_valueOutOfRange h ht, ((exec_ends h).errorPossible ht).1⟩⟩
  obtain ⟨hv, hok⟩ | ⟨hv, rfl⟩ := exec_st_dense_in_range h hd ha
  · refine ⟨fun _ => hok, fun _ _ => hok, fun h8 hwide => ?_, fun hne => absurd hok hne⟩
    rw [h8] at hv
    exact absurd hv (Nat.not_lt.mpr hwide)
  · obtain ⟨h8, hwide⟩ := slotWidth_of_value_too_wide hv
    exact ⟨fun h16 => by simp [h8] at h16, fun _ hfit => absurd hwide (Nat.not_lt.mpr hfit),
      fun _ _ => rfl, fun _ => rfl⟩

end Sys2Proof.Machine
end

section
/-!
SUPPORT. The encoding (R55..R70): a word is its three fields (R56), what decode answers is said by the
fields alone (R62), and sets of words given by their fields are counted field by field (R64, R65).
-/

namespace Sys2Proof

/-! ### A word is its three fields (R56) -/

theorem splitWord_opc_toNat (w : Word) : (splitWord w).opc.toNat = w.toNat / 256 := by
  simp only [splitWord, BitVec.extractLsb'_toNat]; omega

theorem splitWord_f0_toNat (w : Word) : (splitWord w).f0.toNat = w.toNat / 16 % 16 := by
  simp only [splitWord, BitVec.extractLsb'_toNat]; omega

theorem splitWord_f1_toNat (w : Word) : (splitWord w).f1.toNat = w.toNat % 16 := by
  simp only [splitWord, BitVec.extractLsb'_toNat]; omega

theorem word_toNat_eq_fields (w : Word) : w.toNat =
    256 * (splitWord w).opc.toNat + 16 * (splitWord w).f0.toNat + (splitWord w).f1.toNat := by
  rw [splitWord_opc_toNat, splitWord_f0_toNat, splitWord_f1_toNat]; omega

theorem splitWord_eq_of_toNat {w : Word} {f : Fields}
    (h : w.toNat = 256 * f.opc.toNat + 16 * f.f0.toNat + f.f1.toNat) : splitWord w = f := by
  obtain ⟨opc, f0, f1⟩ := f
  have h0 := f0.isLt
  have h1 := f1.isLt
  rw [Fields.mk.injEq]
  dsimp only at h
  refine ⟨BitVec.eq_of_toNat_eq ?_, BitVec.eq_of_toNat_eq ?_, BitVec.eq_of_toNat_eq ?_⟩
  · rw [splitWord_opc_toNat]; omega
  · rw [splitWord_f0_toNat]; omega
  · rw [splitWord_f1_toNat]; omega

theorem splitWord_injective : Function.Injective splitWord := by
  intro w v h
  apply BitVec.eq_of_toNat_eq
  rw [word_toNat_eq_fields w, word_toNat_eq_fields v, h]

theorem splitWord_surjective : Function.Surjective splitWord := by
  intro f
  have hopc := f.opc.isLt
  have h0 := f.f0.isLt
  have h1 := f.f1.isLt
  refine ⟨BitVec.ofNat 16 (256 * f.opc.toNat + 16 * f.f0.toNat + f.f1.toNat), splitWord_eq_of_toNat ?_⟩
  rw [BitVec.toNat_ofNat]; omega

theorem splitWord_and (w m : Word) : splitWord (w &&& m) =
    { opc := (splitWord w).opc &&& (splitWord m).opc
      f0 := (splitWord w).f0 &&& (splitWord m).f0
      f1 := (splitWord w).f1 &&& (splitWord m).f1 } := by
  simp only [splitWord, BitVec.extractLsb'_and]

/-! ### The validator's bounds as bits (R60) -/

theorem operandField_and_eight {f : OperandField} : f &&& 8 = 0 ↔ f.toNat ≤ 7 := by
  revert f; decide

theorem operandField_msb {f : OperandField} : f.getLsbD 3 = false ↔ f.toNat ≤ 7 := by
  revert f; decide

theorem opcodeByte_and_mask {b : OpcodeByte} : b &&& 0xFC = 0 ↔ b.toNat ≤ 3 := by
  revert b; decide

theorem opcodeByte_high_bits {b : OpcodeByte} : b.extractLsb' 2 6 = 0 ↔ b.toNat ≤ 3 := by
  revert b; decide

theorem Fields.wellFormed_iff {f : Fields} :
    f.wellFormed = true ↔ f.opc.toNat ≤ 3 ∧ f.f0.toNat ≤ 7 ∧ f.f1.toNat ≤ 7 := by
  simp only [Fields.wellFormed, Fields.opcodeLegal, Fields.op0InRange, Fields.op1InRange,
    Bool.and_eq_true, decide_eq_true_eq, and_assoc]

/-! ### Instructions and their fields -/

@[simp] theorem makeInstr_opcode (op : Opcode) (n m : RegIdx) : (makeInstr op n m).opcode = op := by
  cases op <;> rfl

@[simp] theorem makeInstr_op0 (op : Opcode) (n m : RegIdx) : (makeInstr op n m).op0 = n := by
  cases op <;> rfl

@[simp] theorem makeInstr_op1 (op : Opcode) (n m : RegIdx) : (makeInstr op n m).op1 = m := by
  cases op <;> rfl

@[simp] theorem makeInstr_eta (i : Instr) : makeInstr i.opcode i.op0 i.op1 = i := by
  cases i <;> rfl

theorem opcodeByte_inj {op op' : Opcode} : opcodeByte op = opcodeByte op' ↔ op = op' := by
  rw [← opcodeOfByte_eq_some, opcodeOfByte_opcodeByte, Option.some_inj]

theorem opcodeByte_toNat_le (op : Opcode) : (opcodeByte op).toNat ≤ 3 := by
  cases op <;> decide

/-- These three fields are the ones of the word of this instruction (R56, R58, R61). -/
def Fields.Encodes (f : Fields) (i : Instr) : Prop :=
  f.opc = opcodeByte i.opcode ∧ f.f0.toNat = i.op0.val ∧ f.f1.toNat = i.op1.val

theorem Fields.Encodes.wellFormed {f : Fields} {i : Instr} (h : f.Encodes i) : f.wellFormed = true := by
  obtain ⟨hopc, h0, h1⟩ := h
  refine Fields.wellFormed_iff.mpr ⟨hopc ▸ opcodeByte_toNat_le i.opcode, ?_, ?_⟩ <;> omega

theorem Fields.Encodes.fields_unique {f g : Fields} {i : Instr} (hf : f.Encodes i) (hg : g.Encodes i) :
    f = g := by
  obtain ⟨opc, f0, f1⟩ := f
  obtain ⟨hopc, h0, h1⟩ := hf
  obtain ⟨hopc', h0', h1'⟩ := hg
  rw [Fields.mk.injEq]
  exact ⟨hopc.trans hopc'.symm, BitVec.eq_of_toNat_eq (h0.trans h0'.symm),
    BitVec.eq_of_toNat_eq (h1.trans h1'.symm)⟩

theorem encodes_splitWord_encode (i : Instr) : (splitWord (encode i)).Encodes i := by
  have h : Laws.EncodedFields.Statement i := by
    cases i with
    | ld n m => exact Laws.EncodedFields.ld n m
    | st n m => exact Laws.EncodedFields.st n m
    | add n m => exact Laws.EncodedFields.add n m
    | xor n m => exact Laws.EncodedFields.xor n m
  obtain ⟨hopc, h0, h1, -⟩ := h
  exact ⟨hopc, h0, h1⟩

/-! ### What decode answers, by the fields of the word (R62, R105) -/

/-- The four ends of a decode, in the order of the checks. -/
theorem decodeFields_cases (f : Fields) :
    (3 < f.opc.toNat ∧ decodeFields f = .error (.invalidOpCode f.opc)) ∨
    (f.opc.toNat ≤ 3 ∧ 7 < f.f0.toNat ∧ decodeFields f = .error (.op0OutOfRange f.f0)) ∨
    (f.opc.toNat ≤ 3 ∧ f.f0.toNat ≤ 7 ∧ 7 < f.f1.toNat ∧
      decodeFields f = .error (.op1OutOfRange f.f1)) ∨
    (f.wellFormed = true ∧ ∃ i, f.Encodes i ∧ decodeFields f = .ok i) := by
  unfold decodeFields
  cases hopc : opcodeOfByte f.opc with
  | none => exact .inl ⟨opcodeOfByte_eq_none.mp hopc, rfl⟩
  | some op =>
    have hop := opcodeOfByte_eq_some.mp hopc
    have hle : f.opc.toNat ≤ 3 := hop ▸ opcodeByte_toNat_le op
    cases h0 : validateOperand f.f0 with
    | none => exact .inr (.inl ⟨hle, validateOperand_eq_none.mp h0, rfl⟩)
    | some n =>
      have hn := validateOperand_eq_some.mp h0
      cases h1 : validateOperand f.f1 with
      | none => exact .inr (.inr (.inl ⟨hle, by omega, validateOperand_eq_none.mp h1, rfl⟩))
      | some m =>
        have henc : f.Encodes (makeInstr op n m) :=
          ⟨by simpa using hop, by simpa using hn, by simpa using validateOperand_eq_some.mp h1⟩
        exact .inr (.inr (.inr ⟨henc.wellFormed, _, henc, rfl⟩))

theorem decode_eq_invalidOpCode {w : Word} {b : OpcodeByte} :
    decode w = .error (.invalidOpCode b) ↔ 3 < (splitWord w).opc.toNat ∧ (splitWord w).opc = b := by
  obtain ⟨h, hd⟩ | ⟨hopc, -, hd⟩ | ⟨hopc, -, -, hd⟩ | ⟨hwf, _, -, hd⟩ := decodeFields_cases (splitWord w)
  · simp [decode, hd, h]
  · simp [decode, hd, Nat.not_lt.mpr hopc]
  · simp [decode, hd, Nat.not_lt.mpr hopc]
  · simp [decode, hd, Nat.not_lt.mpr (Fields.wellFormed_iff.mp hwf).1]

theorem decode_eq_op0OutOfRange {w : Word} {f : OperandField} :
    decode w = .error (.op0OutOfRange f) ↔
      (splitWord w).opc.toNat ≤ 3 ∧ 7 < (splitWord w).f0.toNat ∧ (splitWord w).f0 = f := by
  obtain ⟨hopc, hd⟩ | ⟨hopc, h0, hd⟩ | ⟨-, h0, -, hd⟩ | ⟨hwf, _, -, hd⟩ :=
    decodeFields_cases (splitWord w)
  · simp [decode, hd, Nat.not_le.mpr hopc]
  · simp [decode, hd, hopc, h0]
  · simp [decode, hd, Nat.not_lt.mpr h0]
  · obtain ⟨-, h0, -⟩ := Fields.wellFormed_iff.mp hwf
    simp [decode, hd, Nat.not_lt.mpr h0]

theorem decode_eq_op1OutOfRange {w : Word} {f : OperandField} :
    decode w = .error (.op1OutOfRange f) ↔
      (splitWord w).opc.toNat ≤ 3 ∧ (splitWord w).f0.toNat ≤ 7 ∧ 7 < (splitWord w).f1.toNat ∧
        (splitWord w).f1 = f := by
  obtain ⟨hopc, hd⟩ | ⟨-, h0, hd⟩ | ⟨hopc, h0, h1, hd⟩ | ⟨hwf, _, -, hd⟩ :=
    decodeFields_cases (splitWord w)
  · simp [decode, hd, Nat.not_le.mpr hopc]
  · simp [decode, hd, Nat.not_le.mpr h0]
  · simp [decode, hd, hopc, h0, h1]
  · obtain ⟨-, -, h1⟩ := Fields.wellFormed_iff.mp hwf
    simp [decode, hd, Nat.not_lt.mpr h1]

theorem decode_eq_ok {w : Word} {i : Instr} : decode w = .ok i ↔ (splitWord w).Encodes i := by
  constructor
  · intro h
    obtain ⟨-, hd⟩ | ⟨-, -, hd⟩ | ⟨-, -, -, hd⟩ | ⟨-, j, hj, hd⟩ := decodeFields_cases (splitWord w) <;>
      rw [decode, hd] at h <;> cases h
    exact hj
  · intro hi
    obtain ⟨hopc, h0, h1⟩ := hi
    rw [decode, decodeFields, opcodeOfByte_eq_some.mpr hopc, validateOperand_eq_some.mpr h0,
      validateOperand_eq_some.mpr h1]
    exact congrArg _ (makeInstr_eta i)

/-- R65: the words that decode are those that pass every check of R62. -/
theorem exists_decode_eq_ok {w : Word} : (∃ i, decode w = .ok i) ↔ (splitWord w).wellFormed = true := by
  constructor
  · rintro ⟨i, hi⟩
    exact (decode_eq_ok.mp hi).wellFormed
  · intro hwf
    obtain ⟨hle, h0, h1⟩ := Fields.wellFormed_iff.mp hwf
    obtain ⟨h, -⟩ | ⟨-, h, -⟩ | ⟨-, -, h, -⟩ | ⟨-, i, -, hd⟩ := decodeFields_cases (splitWord w)
    · exact absurd hle (Nat.not_le.mpr h)
    · exact absurd h0 (Nat.not_le.mpr h)
    · exact absurd h1 (Nat.not_le.mpr h)
    · exact ⟨i, hd⟩

/-- R58, R60: the words of one opcode. -/
theorem exists_decode_eq_makeInstr {w : Word} (op : Opcode) :
    (∃ n m, decode w = .ok (makeInstr op n m)) ↔
      (splitWord w).opc = opcodeByte op ∧ (splitWord w).f0.toNat ≤ 7 ∧ (splitWord w).f1.toNat ≤ 7 := by
  simp only [decode_eq_ok, Fields.Encodes, makeInstr_opcode, makeInstr_op0, makeInstr_op1]
  constructor
  · rintro ⟨n, m, hopc, h0, h1⟩
    exact ⟨hopc, by omega, by omega⟩
  · rintro ⟨hopc, h0, h1⟩
    exact ⟨⟨_, Nat.lt_succ_of_le h0⟩, ⟨_, Nat.lt_succ_of_le h1⟩, hopc, rfl, rfl⟩

/-- R70, first half. -/
@[simp] theorem decode_encode (i : Instr) : decode (encode i) = .ok i :=
  decode_eq_ok.mpr (encodes_splitWord_encode i)

/-- R70, second half. -/
theorem encode_of_decode {w : Word} {i : Instr} (h : decode w = .ok i) : encode i = w :=
  splitWord_injective ((encodes_splitWord_encode i).fields_unique (decode_eq_ok.mp h))

/-- R56, R70: the encoder's formula, in numbers. -/
theorem encode_toNat (i : Instr) : (encode i).toNat =
    256 * (opcodeByte i.opcode).toNat + 16 * i.op0.val + i.op1.val := by
  obtain ⟨hopc, h0, h1⟩ := encodes_splitWord_encode i
  rw [word_toNat_eq_fields, hopc, h0, h1]

/-! ### Masked words -/

/-- R65's mask keeps what every check of R62 looks at, and nothing else. -/
theorem and_decodeMask_eq_zero {w : Word} :
    w &&& 0xFC88 = 0x0000 ↔ (splitWord w).wellFormed = true := by
  rw [← splitWord_injective.eq_iff, splitWord_and, show splitWord 0x0000 = ⟨0, 0, 0⟩ by decide,
    show splitWord 0xFC88 = ⟨0xFC, 8, 8⟩ by decide, Fields.mk.injEq, opcodeByte_and_mask,
    operandField_and_eight, operandField_and_eight, Fields.wellFormed_iff]

/-- A row of the opcode table: its mask keeps the opcode byte and the top bit of each operand field, and
its match is the word with both operands 0. -/
theorem and_rowMask_eq_match {w : Word} (op : Opcode) :
    w &&& 0xFF88 = encode (makeInstr op 0 0) ↔ ∃ n m, decode w = .ok (makeInstr op n m) := by
  have hmatch : splitWord (encode (makeInstr op 0 0)) = ⟨opcodeByte op, 0, 0⟩ := by
    cases op <;> decide
  rw [← splitWord_injective.eq_iff, splitWord_and, hmatch,
    show splitWord 0xFF88 = ⟨BitVec.allOnes 8, 8, 8⟩ by decide, Fields.mk.injEq, BitVec.and_allOnes,
    operandField_and_eight, operandField_and_eight, exists_decode_eq_makeInstr]

/-! ### Counting words field by field (R64, R65) -/

/-- As many values as the finite set has members, all of them below 2^n. -/
theorem ncard_toNat_mem {n : Nat} (S : Finset Nat) (hS : ∀ k ∈ S, k < 2 ^ n) :
    {b : BitVec n | b.toNat ∈ S}.ncard = S.card := by
  rw [← Set.ncard_coe_finset S]
  exact Set.ncard_preimage_of_injective_subset_range BitVec.toNat_injective
    fun k hk => ⟨BitVec.ofNatLT k (hS k hk), rfl⟩

theorem ncard_toNat_le {n k : Nat} (hk : k < 2 ^ n) : {b : BitVec n | b.toNat ≤ k}.ncard = k + 1 := by
  rw [← Finset.card_range (k + 1), ← ncard_toNat_mem (n := n)]
  · simp only [Finset.mem_range, Nat.lt_succ_iff]
  · intro j hj
    have := Finset.mem_range.mp hj
    omega

theorem ncard_toNat_gt (n k : Nat) : {b : BitVec n | k < b.toNat}.ncard = 2 ^ n - 1 - k := by
  rw [← Nat.card_Ioc, ← ncard_toNat_mem (n := n)]
  · simp only [Finset.mem_Ioc, Nat.le_sub_one_of_lt (BitVec.isLt _), and_true]
  · intro j hj
    obtain ⟨hkj, hj⟩ := Finset.mem_Ioc.mp hj
    omega

theorem ncard_univ_bitVec (n : Nat) : (Set.univ : Set (BitVec n)).ncard = 2 ^ n := by
  rw [Set.ncard_univ, Nat.card_congr BitVec.equivFin.toEquiv, Nat.card_fin]

/-- The three fields of a word as a triple. -/
def fieldTriple (w : Word) : OpcodeByte × OperandField × OperandField :=
  ((splitWord w).opc, (splitWord w).f0, (splitWord w).f1)

theorem fieldTriple_injective : Function.Injective fieldTriple := by
  intro w v h
  obtain ⟨hopc, h01⟩ := Prod.mk.inj h
  obtain ⟨h0, h1⟩ := Prod.mk.inj h01
  apply BitVec.eq_of_toNat_eq
  rw [word_toNat_eq_fields w, word_toNat_eq_fields v, hopc, h0, h1]

theorem fieldTriple_surjective : Function.Surjective fieldTriple := by
  rintro ⟨opc, f0, f1⟩
  obtain ⟨w, hw⟩ := splitWord_surjective ⟨opc, f0, f1⟩
  exact ⟨w, by simp only [fieldTriple, hw]⟩

/-- A set of words that bounds each field on its own has as many words as the three bounds multiply to. -/
theorem ncard_words_of_fields (P : Set OpcodeByte) (Q R : Set OperandField) :
    {w : Word | (splitWord w).opc ∈ P ∧ (splitWord w).f0 ∈ Q ∧ (splitWord w).f1 ∈ R}.ncard =
      P.ncard * (Q.ncard * R.ncard) := by
  rw [← Set.ncard_prod, ← Set.ncard_prod]
  exact Set.ncard_preimage_of_injective_subset_range (s := P ×ˢ Q ×ˢ R) fieldTriple_injective
    fun t _ => fieldTriple_surjective t

end Sys2Proof
end

section
/-!
SUPPORT. The statements on the encoding: O2 to O7.
-/

namespace Sys2Proof

/-- Settles O2: the fields of an instruction's word are the instruction's (`encodes_splitWord_encode`),
decode answers by the fields alone (`decode_eq_ok`), and the fields fix the word. -/
theorem encodeAndDecodeAgree : Obligations.EncodeAndDecodeAgree := by
  refine ⟨fun i => ?_, decode_encode, fun w i => encode_of_decode⟩
  rw [encode_toNat]
  cases i <;> rfl

/-- Settles O3: one clause for each of the four ends of a decode. -/
theorem decodeReportsTheFirstFailedCheck : Obligations.DecodeReportsTheFirstFailedCheck := by
  intro opc f0 f1 w hw
  have hsplit : splitWord w = ⟨opc, f0, f1⟩ := splitWord_eq_of_toNat (by dsimp only; omega)
  refine ⟨fun hopc => ?_, fun hopc h0 => ?_, fun hopc h0 h1 => ?_, fun hopc h0 h1 => ?_⟩
  · exact decode_eq_invalidOpCode.mpr (by simpa [hsplit] using hopc)
  · exact decode_eq_op0OutOfRange.mpr (by simpa [hsplit] using ⟨hopc, h0⟩)
  · exact decode_eq_op1OutOfRange.mpr (by simpa [hsplit] using ⟨hopc, h0, h1⟩)
  · have hwf : (splitWord w).wellFormed = true :=
      Fields.wellFormed_iff.mpr (by simpa [hsplit] using ⟨hopc, h0, h1⟩)
    obtain ⟨i, hi⟩ := exists_decode_eq_ok.mpr hwf
    have henc := decode_eq_ok.mp hi
    rw [hsplit] at henc
    obtain ⟨rfl, hi0, hi1⟩ := henc
    exact ⟨i, hi, hi0.symm, hi1.symm, opcodeByte_inj.symm, opcodeByte_inj.symm, opcodeByte_inj.symm,
      opcodeByte_inj.symm⟩

/-! ### Which words fail, and how many -/

theorem exists_decode_eq_invalidOpCode {w : Word} :
    (∃ b, decode w = .error (.invalidOpCode b)) ↔ 3 < (splitWord w).opc.toNat := by
  simp [decode_eq_invalidOpCode]

theorem exists_decode_eq_op0OutOfRange {w : Word} :
    (∃ f, decode w = .error (.op0OutOfRange f)) ↔
      (splitWord w).opc.toNat ≤ 3 ∧ 7 < (splitWord w).f0.toNat := by
  simp [decode_eq_op0OutOfRange]

theorem exists_decode_eq_op1OutOfRange {w : Word} :
    (∃ f, decode w = .error (.op1OutOfRange f)) ↔
      (splitWord w).opc.toNat ≤ 3 ∧ (splitWord w).f0.toNat ≤ 7 ∧ 7 < (splitWord w).f1.toNat := by
  simp [decode_eq_op1OutOfRange]

theorem ncard_illegal_opcodeBytes : Set.ncard {b : OpcodeByte | opcodeOfByte b = none} = 252 := by
  simp only [opcodeOfByte_eq_none]
  exact ncard_toNat_gt 8 3

theorem ncard_invalidOpCode_words :
    Set.ncard {w : Word | ∃ b, decode w = .error (.invalidOpCode b)} = 64512 := by
  have h := ncard_words_of_fields {b | 3 < b.toNat} Set.univ Set.univ
  rw [ncard_toNat_gt, ncard_univ_bitVec] at h
  simpa [exists_decode_eq_invalidOpCode] using h

theorem ncard_op0OutOfRange_words :
    Set.ncard {w : Word | ∃ f, decode w = .error (.op0OutOfRange f)} = 512 := by
  have h := ncard_words_of_fields {b | b.toNat ≤ 3} {f | 7 < f.toNat} Set.univ
  rw [ncard_toNat_le (by decide), ncard_toNat_gt, ncard_univ_bitVec] at h
  simpa [exists_decode_eq_op0OutOfRange] using h

theorem ncard_op1OutOfRange_words :
    Set.ncard {w : Word | ∃ f, decode w = .error (.op1OutOfRange f)} = 256 := by
  have h := ncard_words_of_fields {b | b.toNat ≤ 3} {f | f.toNat ≤ 7} {f | 7 < f.toNat}
  rw [ncard_toNat_le (by decide), ncard_toNat_le (by decide), ncard_toNat_gt] at h
  simpa [exists_decode_eq_op1OutOfRange] using h

theorem ncard_decodable_words : Set.ncard {w : Word | ∃ i, decode w = .ok i} = 256 := by
  have h := ncard_words_of_fields {b | b.toNat ≤ 3} {f | f.toNat ≤ 7} {f | f.toNat ≤ 7}
  rw [ncard_toNat_le (by decide), ncard_toNat_le (by decide)] at h
  simpa [exists_decode_eq_ok, Fields.wellFormed_iff] using h

/-- Settles O4: each error by the fields that raise it, those fields as quotients of the word, and the
counts above. -/
theorem illegalWordsFailDecode : Obligations.IllegalWordsFailDecode := by
  refine ⟨fun w => ?_, fun w b h => ?_, fun w => ?_, fun w => ?_, ncard_illegal_opcodeBytes,
    ncard_invalidOpCode_words, ncard_op0OutOfRange_words, ncard_op1OutOfRange_words⟩
  · rw [exists_decode_eq_invalidOpCode, splitWord_opc_toNat, Nat.succ_le_iff]
  · obtain ⟨-, rfl⟩ := decode_eq_invalidOpCode.mp h
    exact splitWord_opc_toNat w
  · rw [exists_decode_eq_op0OutOfRange, splitWord_opc_toNat, splitWord_f0_toNat, Nat.succ_le_iff]
  · rw [exists_decode_eq_op1OutOfRange, splitWord_opc_toNat, splitWord_f0_toNat, splitWord_f1_toNat,
      Nat.succ_le_iff]

/-- R65's three fields of bits, read in the fields of the word. -/
theorem high_bits_clear_iff_wellFormed {w : Word} :
    w.extractLsb' 10 6 = 0 ∧ w.getLsbD 7 = false ∧ w.getLsbD 3 = false ↔
      (splitWord w).wellFormed = true := by
  have hopc : w.extractLsb' 10 6 = (splitWord w).opc.extractLsb' 2 6 := by
    apply BitVec.eq_of_toNat_eq
    rw [BitVec.extractLsb'_toNat, BitVec.extractLsb'_toNat, splitWord_opc_toNat]
    omega
  have h0 : w.getLsbD 7 = (splitWord w).f0.getLsbD 3 := by simp [splitWord]
  have h1 : w.getLsbD 3 = (splitWord w).f1.getLsbD 3 := by simp [splitWord]
  rw [hopc, h0, h1, opcodeByte_high_bits, operandField_msb, operandField_msb, Fields.wellFormed_iff]

/-- Settles O5: the count field by field, and both forms of the mask as the checks of R62. -/
theorem decodableWordsAreTheMaskedWords : Obligations.DecodableWordsAreTheMaskedWords :=
  ⟨ncard_decodable_words, fun _ => exists_decode_eq_ok.trans and_decodeMask_eq_zero.symm,
    fun _ => exists_decode_eq_ok.trans high_bits_clear_iff_wellFormed.symm⟩

/-- Settles O6, each row by `and_rowMask_eq_match` at its opcode. -/
theorem opcodeTableRowsSelectTheirInstruction : Obligations.OpcodeTableRowsSelectTheirInstruction :=
  fun _ => ⟨and_rowMask_eq_match .ld, and_rowMask_eq_match .st, and_rowMask_eq_match .add,
    and_rowMask_eq_match .xor⟩

/-- Settles O7: each word is the word of the instruction whose text is given. -/
theorem assemblerTextOfTheExamples : Obligations.AssemblerTextOfTheExamples := by
  refine ⟨?_, ?_, ?_, ?_⟩
  · rw [show (0x0201 : Word) = encode (.add 0 1) by decide, decode_encode]; rfl
  · rw [show (0x0001 : Word) = encode (.ld 0 1) by decide, decode_encode]; rfl
  · rw [show (0x0150 : Word) = encode (.st 5 0) by decide, decode_encode]; rfl
  · rw [show (0x0323 : Word) = encode (.xor 2 3) by decide, decode_encode]; rfl

end Sys2Proof
end

section
/-!
SUPPORT. The engine family (40_engine.md): every instruction meets one of the three frames, ADD
and XOR answer by an equation, and a step on a word is that word's transaction.
-/

namespace Sys2Proof.Machine

/-! ### An instruction writes at most one element -/

/-- R75, R79, R46: every instruction commits nothing, writes its register op0 alone, or is an ST that
writes its slot alone. -/
theorem exec_frames {i : Instr} {s t : State} (h : exec i s = .next t) :
    (∃ e, CommitsNothing s t e) ∨
    (i.opcode ≠ .st ∧ ∃ v, WritesOnlyReg s t i.op0 v) ∨
    (i.opcode = .st ∧ WritesOnlySlot s t (storeAddress s i.op0) (storeValue s i.op1)) := by
  obtain ⟨e, he⟩ | ⟨hop, v, he⟩ | ⟨hop, ha, hv, he⟩ := exec_cases i s <;> rw [he] at h <;> cases h
  · exact .inl ⟨e, commitsNothing_respond s e⟩
  · exact .inr (.inl ⟨hop, v, writesOnlyReg_respond s i.op0 v⟩)
  · exact .inr (.inr ⟨hop, writesOnlySlot_respond ha hv⟩)

theorem WritesOnlyReg.eq_of_reg_ne {s t : State} {r q : RegIdx} {v : Word} (h : WritesOnlyReg s t r v)
    (hne : t.reg q ≠ s.reg q) : q = r :=
  not_imp_comm.mp (h.others q) hne

theorem WritesOnlySlot.eq_of_slot_ne {s t : State} {a b v : Word} (h : WritesOnlySlot s t a v)
    (hne : t.slot b ≠ s.slot b) : b = a :=
  not_imp_comm.mp (h.others b) hne

/-- Settles O26, by the frame the instruction meets. -/
theorem oneElementWrittenPerTransaction : Obligations.OneElementWrittenPerTransaction := by
  intro i s t h
  obtain ⟨e, hf⟩ | ⟨-, v, hf⟩ | ⟨hop, hf⟩ := exec_frames h
  · exact ⟨fun _ => hf.memory, fun q _ hq => absurd (hf.registers q) hq,
      fun a _ ha => absurd (hf.memory a) ha⟩
  · exact ⟨fun _ => hf.memory, fun _ _ hq hq' => (hf.eq_of_reg_ne hq).trans (hf.eq_of_reg_ne hq').symm,
      fun a _ ha => absurd (hf.memory a) ha⟩
  · exact ⟨fun ⟨q, hq⟩ => absurd (hf.registers q) hq, fun q _ hq => absurd (hf.registers q) hq,
      fun _ _ ha ha' => ⟨(hf.eq_of_slot_ne ha).trans (hf.eq_of_slot_ne ha').symm, hop⟩⟩

/-! ### What ADD and XOR answer -/

/-- R100. -/
theorem exec_add_of_overflow {s : State} {d a : RegIdx} (h : 0xFFFF < (s.reg d).toNat + (s.reg a).toNat) :
    exec (.add d a) s = .next (s.respond (.err (.additionOverflow (s.reg d) (s.reg a)))) := by
  obtain ⟨-, ha⟩ | ⟨hle, -⟩ := aluAdd_cases (s.reg d) (s.reg a)
  · simp only [exec, execAdd, portA, portB, ha, raise]
  · exact absurd h (Nat.not_lt.mpr hle)

/-- R90. -/
theorem exec_add_of_sum_le {s : State} {d a : RegIdx} (h : (s.reg d).toNat + (s.reg a).toNat ≤ 0xFFFF) :
    ∃ v, v.toNat = (s.reg d).toNat + (s.reg a).toNat ∧
      exec (.add d a) s = .next ((s.writeReg d v).respond .ok) := by
  obtain ⟨hlt, -⟩ | ⟨-, v, ha, hv⟩ := aluAdd_cases (s.reg d) (s.reg a)
  · exact absurd hlt (Nat.not_lt.mpr h)
  · exact ⟨v, hv, by simp only [exec, execAdd, portA, portB, ha, commitReg]⟩

/-- R91. -/
theorem exec_xor (s : State) (d a : RegIdx) :
    exec (.xor d a) s = .next ((s.writeReg d (s.reg d ^^^ s.reg a)).respond .ok) := rfl

/-- Settles O17: the written value is a function of the registers as they were. -/
theorem sourcesAreReadBeforeTheWrite : Obligations.SourcesAreReadBeforeTheWrite := by
  intro s n
  refine ⟨fun hlow => ?_, fun hhigh => ?_, ?_, fun v hv => ?_⟩
  · obtain ⟨v, hv, hx⟩ := exec_add_of_sum_le (s := s) (d := n) (a := n) (by omega)
    exact ⟨_, hx, by simp [hv, Nat.two_mul]⟩
  · exact ⟨_, exec_add_of_overflow (by omega), rfl⟩
  · exact ⟨_, exec_xor s n n, by simp⟩
  · obtain ⟨t, hx, hw⟩ := exec_ld_of_slot n (a := n) hv
    exact ⟨t, hx, hw.written⟩

/-! ### The register write port -/

/-- R79: the enable and the register index. -/
theorem exec_reg_change {i : Instr} {s t : State} {q : RegIdx} (h : exec i s = .next t)
    (hq : t.reg q ≠ s.reg q) : q = i.op0 ∧ i.opcode ≠ .st ∧ t.rsp = some .ok := by
  obtain ⟨e, hf⟩ | ⟨hop, v, hf⟩ | ⟨-, hf⟩ := exec_frames h
  · exact absurd (hf.registers q) hq
  · exact ⟨hf.eq_of_reg_ne hq, hop, hf.response⟩
  · exact absurd (hf.registers q) hq

/-- R79: the data an LD writes is what the checked read answers. -/
theorem exec_ld_data {s t : State} {d a : RegIdx} (h : exec (.ld d a) s = .next t)
    (hok : t.rsp = some .ok) : memRead s.config s.mem (s.reg a) = .ok (t.reg d) := by
  cases hr : memRead s.config s.mem (s.reg a) with
  | error e => rw [exec_ld_of_memRead_error hr] at h; cases h; cases hok
  | ok v => rw [exec_ld_of_memRead_ok hr] at h; cases h; simp

/-- R79: the data an ADD writes is the sum. -/
theorem exec_add_data {s t : State} {d a : RegIdx} (h : exec (.add d a) s = .next t)
    (hok : t.rsp = some .ok) : (t.reg d).toNat = (s.reg d).toNat + (s.reg a).toNat := by
  by_cases hsum : (s.reg d).toNat + (s.reg a).toNat ≤ 0xFFFF
  · obtain ⟨v, hv, hx⟩ := exec_add_of_sum_le hsum
    rw [hx] at h; cases h
    simpa using hv
  · rw [exec_add_of_overflow (Nat.lt_of_not_le hsum)] at h; cases h; cases hok

/-- Settles O24: the enable and the index by `exec_reg_change`, the data by opcode. -/
theorem registerWritePort : Obligations.RegisterWritePort := by
  refine fun i s t h => ⟨fun q => exec_reg_change h, fun hok => ?_⟩
  cases i with
  | ld d a => exact exec_ld_data h hok
  | st => trivial
  | add d a => exact exec_add_data h hok
  | xor d a => rw [exec_xor] at h; cases h; simp

/-! ### A failed transaction -/

theorem process_of_decode_error {w : Word} {e : DecodeError} (s : State) (h : decode w = .error e) :
    process w s = .next (s.respond (.err (decodeErrorKind e))) := by
  rw [process_eq, h]

theorem process_of_decode_ok {w : Word} {i : Instr} (s : State) (h : decode w = .ok i) :
    process w s = exec i s.accept.execute := by
  rw [process_eq, h, exec_accept_execute]

/-- Settles O21: the decode error is the whole answer. -/
theorem decodeFailureWritesNothing : Obligations.DecodeFailureWritesNothing :=
  fun _ s _ hd => ⟨_, process_of_decode_error s hd, commitsNothing_respond s _, rfl⟩

/-- Settles O22: a transaction that reports an error is the state it began in, with the response. -/
theorem failedTransactionCommitsNothing : Obligations.FailedTransactionCommitsNothing := by
  intro w s t e h he
  obtain rfl := (process_ends h).eq_respond_of_err he
  exact ⟨commitsNothing_respond s e, rfl⟩

/-! ### A step is the host's next move -/

/-- R72: a step on a word is the word's transaction, the word taken from the host. -/
theorem step_of_word {s : State} {w : Word} {rest : List HostMove} (hc : legalConfig s.config = true)
    (hp : s.phase = .idle) (hh : s.host = .word w :: rest) :
    step s = process w { s with host := rest } := by
  unfold step
  rw [advance_eq hc hp, hh]
  rfl

/-- Settles O29, by whether the word decodes. -/
theorem stepRunsTheDecodedInstruction : Obligations.StepRunsTheDecodedInstruction := by
  refine fun s w rest hc hp hh => ⟨fun i hd => ?_, fun e hd => ?_⟩
  · rw [step_of_word hc hp hh, process_of_decode_ok _ hd]
    rfl
  · rw [step_of_word hc hp hh, process_of_decode_error _ hd, State.respond, ← hp]

theorem decode_of_decodeTableWord {nbits w : Nat} {i : Instr} (h : decodeTableWord nbits w = some i) :
    decode (tableWord nbits w) = .ok i := by
  unfold decodeTableWord at h
  split at h
  next =>
    cases hd : decode (tableWord nbits w) with
    | error e => simp [hd] at h
    | ok j => simpa [hd] using h
  next => cases h

/-- Settles O30: the placed word is the host's next move, so the step runs it. -/
theorem fetchedWordRunsNext : Obligations.FetchedWordRunsNext := by
  intro s nbits w i hc hd
  obtain ⟨hrun, -⟩ := stepRunsTheDecodedInstruction (s.withFetchWord nbits w) (tableWord nbits w) s.host
    hc rfl rfl
  exact hrun i (decode_of_decodeTableWord hd)

/-- Settles O41: the step is the move, which clears the response. -/
theorem takingTheResponseChangesNothingElse : Obligations.TakingTheResponseChangesNothingElse := by
  intro s rest hs hh
  have hstep : step s = .next { s with host := rest, rsp := none } := by
    unfold step
    rw [advance_eq hs.legal hs.idle, hh]
    rfl
  exact ⟨_, hstep, rfl, rfl, rfl, rfl, by simp [State.reqReady, hs.idle], rfl⟩

/-! ### A program is the composition of its transactions (R72) -/

/-- No transaction makes a move for the host. -/
theorem TransactionEnds.host {s t : State} (h : TransactionEnds s t) : t.host = s.host := by
  cases h <;> rfl

/-- No instruction looks at the moves the host has still to make. -/
theorem exec_set_host {i : Instr} {s t : State} (moves : List HostMove) (h : exec i s = .next t) :
    exec i { s with host := moves } = .next { t with host := moves } := by
  cases i with
  | ld d a =>
    simp only [exec, execLd, loadAddress, portB, State.reg_set_host] at h ⊢
    revert h
    cases memRead s.config s.mem (s.reg a) <;> rintro ⟨⟩ <;> rfl
  | st a v =>
    simp only [exec, execSt, storeAddress, storeValue, portA, portB, State.reg_set_host] at h ⊢
    revert h
    cases memWrite s.config s.mem (s.reg a) (s.reg v) <;> rintro ⟨⟩ <;> rfl
  | add d a =>
    simp only [exec, execAdd, portA, portB, State.reg_set_host] at h ⊢
    revert h
    cases aluAdd (s.reg d) (s.reg a) <;> rintro ⟨⟩ <;> rfl
  | xor d a => cases h; rfl

/-- No transaction looks at the moves the host has still to make. -/
theorem process_set_host {w : Word} {s t : State} (moves : List HostMove) (h : process w s = .next t) :
    process w { s with host := moves } = .next { t with host := moves } := by
  cases hd : decode w with
  | error e =>
    rw [process_of_decode_error _ hd] at h ⊢; cases h
    rfl
  | ok i =>
    rw [process_eq, hd] at h ⊢
    exact exec_set_host moves h

/-- Settles O31, by induction on the words: a step is the first word's transaction, which leaves a sound
state whose host has the other words to present. -/
theorem programIsTheCompositionOfItsTransactions :
    Obligations.ProgramIsTheCompositionOfItsTransactions := by
  intro ws rest s hs hh
  induction ws generalizing s with
  | nil =>
    obtain rfl : s.host = rest := hh
    exact ⟨s, rfl, rfl⟩
  | cons w ws ih =>
    obtain ⟨u, hu⟩ := process_next w { s with host := ws.map HostMove.word ++ rest }
    have hends := process_ends hu
    obtain ⟨t, hrun, hall⟩ := ih u (hends.sound hs.legal hs.memory) hends.host
    have hstep : Sys2Proof.core.step s = .next u := (step_of_word hs.legal hs.idle hh).trans hu
    have hproc : process w { s with host := rest } = .next { u with host := rest } :=
      (process_set_host rest hu :)
    refine ⟨t, ?_, ?_⟩
    · simpa only [List.length_cons, Host.Core.run, hstep] using hrun
    · simpa only [processAll, hproc] using hall

end Sys2Proof.Machine
end

section
/-!
SUPPORT. The load and store family (41_load_store.md): the addressed slot by memory organisation, and
ST's answer from the verdicts of its two checkers.
-/

namespace Sys2Proof.Machine

/-! ### The slot a load reads, by memory organisation -/

/-- R40: an unlisted DENSE slot holds 0. -/
theorem State.slot_dense {s : State} {a : Word} (hd : s.config.memOrg = .dense)
    (ha : a.toNat < s.config.memSlots) :
    s.slot a = some (slotPart s.config ((Memory.lookup s.mem a.toNat).getD 0)) := by
  have hcheck : addressCheck s.config a = none := (addressCheck_eq_none _ _).mpr fun _ => ha
  cases hl : Memory.lookup s.mem a.toNat <;>
    simp [State.slot, Memory.content, Memory.unlisted, hcheck, hd, hl]

/-- R25, R42: a SPARSE memory has the listed slots and no others. -/
theorem State.slot_sparse {s : State} (hs : s.config.memOrg = .sparse) (a : Word) :
    s.slot a = Memory.lookup s.mem a.toNat := by
  cases hl : Memory.lookup s.mem a.toNat <;>
    simp [State.slot, addressCheck, Memory.content, Memory.unlisted, slotPart_sparse, hs, hl]

/-- Settles O8, by slot width. -/
theorem loadFromDenseMemory : Obligations.LoadFromDenseMemory := by
  intro s d a hd ha
  have hslot := State.slot_dense hd ha
  cases hw : s.config.slotWidth with
  | bits8 =>
    rw [slotPart_dense_bits8 hd hw] at hslot
    exact exec_ld_of_slot d hslot
  | bits16 =>
    rw [slotPart_bits16 hw] at hslot
    exact exec_ld_of_slot d hslot

/-- Settles O9, by whether the addressed slot exists; dom(Mem) is kept since an error changes nothing
but the response. -/
theorem loadFromSparseMemory : Obligations.LoadFromSparseMemory := by
  intro s d a hs
  have hslot : s.slot (loadAddress s a) = Memory.lookup s.mem (s.reg a).toNat := State.slot_sparse hs _
  refine ⟨fun v hv => exec_ld_of_slot d (hslot.trans hv), fun hnone => ?_⟩
  obtain ⟨t, hx, hc⟩ := exec_ld_sparse_of_no_slot d hs (hslot.trans hnone)
  obtain rfl := (exec_ends hx).eq_respond_of_err hc.response
  exact ⟨_, hx, hc, rfl⟩

/-! ### The store, by the verdicts of its two checkers -/

/-- R101. -/
theorem addressCheck_dense_of_le {c : Config} {a : Word} (hd : c.memOrg = .dense)
    (ha : c.memSlots ≤ a.toNat) : addressCheck c a = some (.addressOutOfRange a) := by
  simp [addressCheck, hd, Nat.not_lt.mpr ha]

/-- R102. -/
theorem valueCheck_dense_bits8_of_lt {c : Config} {v : Word} (hd : c.memOrg = .dense)
    (hw : c.slotWidth = .bits8) (hv : 0xFF < v.toNat) : valueCheck c v = some (.valueOutOfRange v) := by
  have hwide : ¬ v.toNat < 2 ^ slotBits .bits8 := Nat.not_lt.mpr hv
  simp [valueCheck, hd, hw, hwide]

/-- R44: a value passes the value checker when, in 8-bit DENSE slots, it is at most 0xFF. -/
theorem valueCheck_eq_none_of_fits {c : Config} {v : Word}
    (h : c.memOrg = .dense → c.slotWidth = .bits8 → v.toNat ≤ 0xFF) : valueCheck c v = none := by
  refine (valueCheck_eq_none c v).mpr fun hd => ?_
  by_contra hwide
  obtain ⟨hw, hv⟩ := slotWidth_of_value_too_wide (Nat.le_of_not_lt hwide)
  exact absurd (h hd hw) (Nat.not_le.mpr hv)

/-- R105: the address checker's verdict comes first. -/
theorem exec_st_of_addressCheck_some {s : State} {a v : RegIdx} {e : ErrorKind}
    (ha : addressCheck s.config (storeAddress s a) = some e) :
    exec (.st a v) s = .next (s.respond (.err e)) := by
  simp only [exec, execSt, memWrite, ha, raise]

theorem exec_st_of_valueCheck_some {s : State} {a v : RegIdx} {e : ErrorKind}
    (ha : addressCheck s.config (storeAddress s a) = none)
    (hv : valueCheck s.config (storeValue s v) = some e) :
    exec (.st a v) s = .next (s.respond (.err e)) := by
  simp only [exec, execSt, memWrite, ha, hv, raise]

/-- R41, R43: a value that passes both checkers is stored whole. -/
theorem exec_st_of_checks_none {s : State} {a v : RegIdx}
    (ha : addressCheck s.config (storeAddress s a) = none)
    (hv : valueCheck s.config (storeValue s v) = none) :
    exec (.st a v) s = .next (State.respond { s with
      mem := Memory.store s.config s.mem (storeAddress s a).toNat (storeValue s v) } .ok) := by
  simp only [exec, execSt, memWrite, ha, hv, slotPart_of_valueCheck hv, commitMem]

/-- Settles O10: both checkers pass. -/
theorem storeWritesTheAddressedSlot : Obligations.StoreWritesTheAddressedSlot := by
  intro s a v haddr hval
  have ha : addressCheck s.config (storeAddress s a) = none := (addressCheck_eq_none _ _).mpr haddr
  have hv : valueCheck s.config (storeValue s v) = none := valueCheck_eq_none_of_fits hval
  exact ⟨_, exec_st_of_checks_none ha hv, writesOnlySlot_respond ha hv⟩

/-- Settles O11, by the checker that fails. -/
theorem denseStoreFailures : Obligations.DenseStoreFailures := by
  refine fun s a v hd => ⟨fun hout => ?_, fun hin hw hwide => ?_⟩
  · have ha := addressCheck_dense_of_le hd hout
    exact ⟨_, exec_st_of_addressCheck_some ha, commitsNothing_respond s _⟩
  · have ha : addressCheck s.config (storeAddress s a) = none := (addressCheck_eq_none _ _).mpr fun _ => hin
    have hv := valueCheck_dense_bits8_of_lt hd hw hwide
    exact ⟨_, exec_st_of_valueCheck_some ha hv, commitsNothing_respond s _⟩

end Sys2Proof.Machine
end

section
/-!
SUPPORT. The ALU family (42_alu.md): ADD and XOR in the frame of one register written, their laws (R94)
on the instructions, and the all-zero invariant (R95).
-/

namespace Sys2Proof.Machine

/-! ### ADD and XOR write one register -/

/-- Settles O14: the checked addition passes, and its sum is committed. -/
theorem addWritesTheSum : Obligations.AddWritesTheSum := by
  intro s d a hsum
  obtain ⟨v, hv, hx⟩ := exec_add_of_sum_le hsum
  exact ⟨_, v, hx, writesOnlyReg_respond s d v, hv⟩

/-- R91: the frame of an XOR that answers, which every XOR does (`exec_xor`). -/
theorem exec_xor_writes {s t : State} {d a : RegIdx} (h : exec (.xor d a) s = .next t) :
    WritesOnlyReg s t d (s.reg d ^^^ s.reg a) := by
  rw [exec_xor] at h; cases h
  exact writesOnlyReg_respond s d _

/-- Settles O16: the exclusive-or, read bit by bit. -/
theorem xorWritesTheExclusiveOr : Obligations.XorWritesTheExclusiveOr :=
  fun s d a => ⟨_, _, exec_xor s d a, writesOnlyReg_respond s d _, fun i _ => by simp⟩

/-! ### The laws of ADD and XOR (R94) -/

/-- ADD is commutative: the two orders of the operands give the same sum, or both overflow. -/
theorem exec_add_comm (s : State) (d a : RegIdx) :
    (∃ v, exec (.add d a) s = .next ((s.writeReg d v).respond .ok) ∧
      exec (.add a d) s = .next ((s.writeReg a v).respond .ok)) ∨
    (exec (.add d a) s = .next (s.respond (.err (.additionOverflow (s.reg d) (s.reg a)))) ∧
      exec (.add a d) s = .next (s.respond (.err (.additionOverflow (s.reg a) (s.reg d))))) := by
  obtain hsum | hsum := le_or_gt ((s.reg d).toNat + (s.reg a).toNat) 0xFFFF
  · obtain ⟨v, hv, hx⟩ := exec_add_of_sum_le hsum
    obtain ⟨v', hv', hx'⟩ := exec_add_of_sum_le (Nat.add_comm _ _ ▸ hsum)
    obtain rfl : v' = v := BitVec.eq_of_toNat_eq (by omega)
    exact .inl ⟨v', hx, hx'⟩
  · exact .inr ⟨exec_add_of_overflow hsum, exec_add_of_overflow (Nat.add_comm _ _ ▸ hsum)⟩

/-- 0 is the identity of ADD. -/
theorem exec_add_zero {s : State} {a : RegIdx} (d : RegIdx) (ha : s.reg a = 0) :
    exec (.add d a) s = .next ((s.writeReg d (s.reg d)).respond .ok) := by
  have hsum : (s.reg d).toNat + (s.reg a).toNat = (s.reg d).toNat := by simp [ha]
  obtain ⟨v, hv, hx⟩ := exec_add_of_sum_le (s := s) (d := d) (a := a) (by omega)
  obtain rfl : v = s.reg d := BitVec.eq_of_toNat_eq (hv.trans hsum)
  exact hx

/-- XOR is associative: both orders of the two XORs leave x[d] ^ x[a] ^ x[e] in d. -/
theorem exec_xor_assoc {s t t' u u' : State} {d a e : RegIdx} (had : a ≠ d) (hed : e ≠ d)
    (ht : exec (.xor d a) s = .next t) (ht' : exec (.xor d e) t = .next t')
    (hu : exec (.xor a e) s = .next u) (hu' : exec (.xor d a) u = .next u') :
    t'.reg d = u'.reg d := by
  have wt := exec_xor_writes ht
  have wu := exec_xor_writes hu
  calc t'.reg d = t.reg d ^^^ t.reg e := (exec_xor_writes ht').written
    _ = (s.reg d ^^^ s.reg a) ^^^ s.reg e := by rw [wt.written, wt.others e hed]
    _ = s.reg d ^^^ (s.reg a ^^^ s.reg e) := BitVec.xor_assoc ..
    _ = u.reg d ^^^ u.reg a := by rw [wu.written, wu.others d had.symm]
    _ = u'.reg d := (exec_xor_writes hu').written.symm

/-- XOR Rd, Rs is its own inverse when d ≠ s: the first XOR leaves x[s] as it was. -/
theorem exec_xor_twice {s t u : State} {d a : RegIdx} (hda : d ≠ a)
    (ht : exec (.xor d a) s = .next t) (hu : exec (.xor d a) t = .next u) : u.reg d = s.reg d := by
  have wt := exec_xor_writes ht
  calc u.reg d = t.reg d ^^^ t.reg a := (exec_xor_writes hu).written
    _ = (s.reg d ^^^ s.reg a) ^^^ s.reg a := by rw [wt.written, wt.others a hda.symm]
    _ = s.reg d := by rw [BitVec.xor_assoc, BitVec.xor_self, BitVec.xor_zero]

/-- Settles O18, law by law. -/
theorem lawsOfAddAndXor : Obligations.LawsOfAddAndXor := by
  intro s d a e
  refine ⟨fun t u ht hu => ?_, fun ha => ⟨_, exec_add_zero d ha, rfl, by simp⟩, fun t u ht hu => ?_,
    fun ha => ⟨_, exec_xor s d a, by simp [ha]⟩, fun had hed _ _ _ _ => exec_xor_assoc had hed,
    ⟨_, exec_xor s d d, by simp⟩,
    fun hda => ⟨_, _, exec_xor s d a, exec_xor _ d a, exec_xor_twice hda (exec_xor ..) (exec_xor ..)⟩⟩
  · obtain ⟨v, hx, hx'⟩ | ⟨hx, hx'⟩ := exec_add_comm s d a
    · rw [hx] at ht; rw [hx'] at hu; cases ht; cases hu
      simp
    · rw [hx] at ht; rw [hx'] at hu; cases ht; cases hu
      simp
  · rw [(exec_xor_writes ht).written, (exec_xor_writes hu).written, BitVec.xor_comm]

/-! ### The all-zero invariant (R95) -/

/-- R19, R26: construction of a DENSE engine with REG_RESET = ZERO. -/
theorem allZero_construct {c : Config} {moves : List HostMove} (hc : legalConfig c = true)
    (hd : c.memOrg = .dense) (hz : c.regReset = .zero) (hm : ∀ mv ∈ moves, mv.denseZero) :
    State.AllZero { State.resetWith c with host := moves } where
  legal := hc
  dense := hd
  registers r := (State.reg_resetWith r c).trans (by rw [hz]; rfl)
  slots _ ha := State.slot_resetWith_dense hd ha
  response := nofun
  moves := hm

/-- R95's scope covers both moves that construct. -/
theorem HostMove.denseZero_of_constructs {mv : HostMove} {c : Config} (hz : mv.denseZero)
    (hmv : mv.constructs c) : c.memOrg = .dense ∧ c.regReset = .zero := by
  obtain rfl | ⟨w, rfl⟩ := hmv <;> exact hz

/-- In an all-zero state every register holds a legal address: 0, and MEM_SLOTS is at least 1. -/
theorem State.AllZero.reg_lt_memSlots {s : State} (h : s.AllZero) (r : RegIdx) :
    (s.reg r).toNat < s.config.memSlots := by
  have hlegal := h.legal
  simp only [legalConfig, h.dense, Bool.and_eq_true, decide_eq_true_eq] at hlegal
  obtain ⟨hpos, -⟩ := hlegal
  simpa [h.registers r] using Nat.lt_of_succ_le hpos

/-- The host's next move, made, leaves the rest of them. -/
theorem State.AllZero.set_host {s : State} {mv : HostMove} {rest : List HostMove} (h : s.AllZero)
    (hh : s.host = mv :: rest) : State.AllZero { s with host := rest } :=
  { h with moves := fun mv' hmv => h.moves mv' (hh ▸ .tail _ hmv) }

theorem State.AllZero.of_writesOnlyReg {s t : State} {r : RegIdx} {v : Word} (h : s.AllZero)
    (hw : WritesOnlyReg s t r v) (hv : v = 0) : t.AllZero where
  legal := hw.config ▸ h.legal
  dense := hw.config ▸ h.dense
  registers q := by
    by_cases hq : q = r
    · exact hq ▸ hw.written.trans hv
    · exact (hw.others q hq).trans (h.registers q)
  slots a ha := (hw.memory a).trans (h.slots a (hw.config ▸ ha))
  response := by simp [hw.response]
  moves := hw.host ▸ h.moves

theorem State.AllZero.of_writesOnlySlot {s t : State} {a v : Word} (h : s.AllZero)
    (hw : WritesOnlySlot s t a v) (hv : v = 0) : t.AllZero where
  legal := hw.config ▸ h.legal
  dense := hw.config ▸ h.dense
  registers q := (hw.registers q).trans (h.registers q)
  slots b hb := by
    by_cases hba : b = a
    · exact hba ▸ hv ▸ hw.written
    · exact (hw.others b hba).trans (h.slots b (hw.config ▸ hb))
  response := by simp [hw.response]
  moves := hw.host ▸ h.moves

theorem State.AllZero.of_commitsNothing {s t : State} {e : ErrorKind} (h : s.AllZero)
    (hn : CommitsNothing s t e) (he : e.fromDecode) : t.AllZero where
  legal := hn.config ▸ h.legal
  dense := hn.config ▸ h.dense
  registers q := (hn.registers q).trans (h.registers q)
  slots a ha := (hn.memory a).trans (h.slots a (hn.config ▸ ha))
  response e' he' := by
    obtain rfl : e = e' := by simpa [hn.response] using he'
    exact he
  moves := hn.host ▸ h.moves

theorem fromDecode_decodeErrorKind (e : DecodeError) : (decodeErrorKind e).fromDecode := by
  cases e <;> trivial

/-- R95: from an all-zero state every instruction writes a 0: every register is an address in range, and
0 + 0 and 0 XOR 0 are 0. -/
theorem State.AllZero.exec_answers_ok {s : State} (i : Instr) (h : s.AllZero) :
    ∃ t, exec i s = .next t ∧ t.rsp = some .ok ∧ t.AllZero := by
  cases i with
  | ld d a =>
    obtain ⟨t, hx, hw⟩ := exec_ld_of_slot d (h.slots (loadAddress s a) (h.reg_lt_memSlots a))
    exact ⟨t, hx, hw.response, h.of_writesOnlyReg hw rfl⟩
  | st a v =>
    obtain ⟨t, hx, hw⟩ := storeWritesTheAddressedSlot s a v (fun _ => h.reg_lt_memSlots a)
      (fun _ _ => by simp [h.registers v])
    exact ⟨t, hx, hw.response, h.of_writesOnlySlot hw (h.registers v)⟩
  | add d a =>
    exact ⟨_, exec_add_zero d (h.registers a), rfl,
      h.of_writesOnlyReg (writesOnlyReg_respond s d _) (h.registers d)⟩
  | xor d a =>
    exact ⟨_, exec_xor s d a, rfl,
      h.of_writesOnlyReg (writesOnlyReg_respond s d _) (by simp [h.registers])⟩

/-- R95: a word that does not decode reports its decode error; any other writes a 0. -/
theorem State.AllZero.of_process {s t : State} {w : Word} (h : s.AllZero)
    (ht : process w s = .next t) : t.AllZero := by
  cases hd : decode w with
  | error e =>
    rw [process_of_decode_error s hd] at ht; cases ht
    exact h.of_commitsNothing (commitsNothing_respond s _) (fromDecode_decodeErrorKind e)
  | ok i =>
    obtain ⟨t', hx, -, hzero⟩ := h.exec_answers_ok i
    rw [exec_of_process hd ht] at hx; cases hx
    exact hzero

/-- R95: the invariant is kept by every move of the host. -/
theorem State.AllZero.of_step {s t : State} (h : s.AllZero) (ht : step s = .next t) : t.AllZero := by
  cases steps_of_step ht with
  | wait => exact h
  | word hh =>
    obtain ⟨hc, hp⟩ := legal_idle_of_step ht
    rw [step_of_word hc hp hh] at ht
    exact (h.set_host hh).of_process ht
  | takeResponse hh => exact { h.set_host hh with response := nofun }
  | construct hh hmv hc =>
    obtain ⟨hd, hz⟩ := HostMove.denseZero_of_constructs (h.moves _ (hh ▸ .head _)) hmv
    exact allZero_construct hc hd hz (h.set_host hh).moves

/-- Settles O34: the invariant holds at reset, every step keeps it, and no instruction errs under it. -/
theorem zeroResetStaysZero : Obligations.ZeroResetStaysZero :=
  ⟨fun _ hc hd hz => allZero_construct hc hd hz nofun, fun _ _ h => h.of_step,
    fun _ i h => h.exec_answers_ok i⟩

end Sys2Proof.Machine
end

section
/-!
SUPPORT. The exceptions family (60_exceptions.md): the circumstances in which an instruction reports each
error (R100..R104), what construction refuses (R114), and what the host sees of an outcome (R71, R112).
-/

namespace Sys2Proof.Machine

/-! ### The errors of the instructions, and their circumstances -/

/-- R100..R104, R106: when an instruction run in state s has to report an error. The errors of decode are
no instruction's, and StackOverflow is never raised. -/
def errorDue (i : Instr) (s : State) : ErrorKind → Prop
  | .additionOverflow x y =>
    i.opcode = .add ∧ x = s.reg i.op0 ∧ y = s.reg i.op1 ∧ 0xFFFF < x.toNat + y.toNat
  | .addressOutOfRange addr =>
    s.config.memOrg = .dense ∧ s.config.memSlots ≤ addr.toNat ∧
      ((i.opcode = .ld ∧ addr = loadAddress s i.op1) ∨ (i.opcode = .st ∧ addr = storeAddress s i.op0))
  | .valueOutOfRange value =>
    s.config.memOrg = .dense ∧ s.config.slotWidth = .bits8 ∧ i.opcode = .st ∧
      (storeAddress s i.op0).toNat < s.config.memSlots ∧ value = storeValue s i.op1 ∧ 2 ^ 8 ≤ value.toNat
  | .memoryEmpty addr =>
    s.config.memOrg = .sparse ∧ i.opcode = .ld ∧ addr = loadAddress s i.op1 ∧
      Memory.lookup s.mem addr.toNat = none
  | .invalidOpCode _ | .op0OutOfRange _ | .op1OutOfRange _ | .stackOverflow _ => False

theorem Instr.eq_add_of_opcode {i : Instr} (h : i.opcode = .add) : i = .add i.op0 i.op1 := by
  cases i with
  | add => rfl
  | ld | st | xor => cases h

/-- R101 on loads. -/
theorem exec_ld_of_address_out_of_range {s : State} {d a : RegIdx} (hd : s.config.memOrg = .dense)
    (ha : s.config.memSlots ≤ (loadAddress s a).toNat) :
    exec (.ld d a) s = .next (s.respond (.err (.addressOutOfRange (loadAddress s a)))) :=
  exec_ld_of_memRead_error (by simp only [memRead, addressCheck_dense_of_le hd ha])

/-- An error that is due is the instruction's whole answer. -/
theorem exec_of_errorDue {i : Instr} {s : State} {e : ErrorKind} (h : errorDue i s e) :
    exec i s = .next (s.respond (.err e)) := by
  cases e with
  | additionOverflow x y =>
    obtain ⟨hop, rfl, rfl, hsum⟩ := h
    rw [Instr.eq_add_of_opcode hop]
    exact exec_add_of_overflow hsum
  | addressOutOfRange addr =>
    obtain ⟨hd, ha, ⟨hop, rfl⟩ | ⟨hop, rfl⟩⟩ := h
    · rw [Instr.eq_ld_of_opcode hop]
      exact exec_ld_of_address_out_of_range hd ha
    · rw [Instr.eq_st_of_opcode hop]
      exact exec_st_of_addressCheck_some (addressCheck_dense_of_le hd ha)
  | valueOutOfRange value =>
    obtain ⟨hd, hw, hop, ha, rfl, hv⟩ := h
    rw [Instr.eq_st_of_opcode hop]
    exact exec_st_of_valueCheck_some ((addressCheck_eq_none _ _).mpr fun _ => ha)
      (valueCheck_dense_bits8_of_lt hd hw hv)
  | memoryEmpty addr =>
    obtain ⟨hs, hop, rfl, hl⟩ := h
    rw [Instr.eq_ld_of_opcode hop]
    obtain ⟨t, hx, hc⟩ := exec_ld_sparse_of_no_slot i.op0 hs ((State.slot_sparse hs _).trans hl)
    rwa [(exec_ends hx).eq_respond_of_err hc.response] at hx
  | invalidOpCode | op0OutOfRange | op1OutOfRange | stackOverflow => cases h

/-- An instruction reports no error that is not due. -/
theorem errorDue_of_exec {i : Instr} {s t : State} {e : ErrorKind} (h : exec i s = .next t)
    (ht : t.rsp = some (.err e)) : errorDue i s e := by
  cases i with
  | ld d a =>
    obtain ⟨hd, ha, rfl⟩ | ⟨-, -, rfl⟩ | ⟨hs, hl, rfl⟩ | ⟨-, v, -, rfl⟩ := exec_ld_cases h <;> cases ht
    · exact ⟨hd, ha, .inl ⟨rfl, rfl⟩⟩
    · exact ⟨hs, rfl, rfl, hl⟩
  | st a v =>
    obtain ⟨hd, ha, rfl⟩ | ⟨hd, ha, hv, rfl⟩ | ⟨-, -, rfl⟩ := exec_st_cases h <;> cases ht
    · exact ⟨hd, ha, .inr ⟨rfl, rfl⟩⟩
    · obtain ⟨hw, hwide⟩ := slotWidth_of_value_too_wide hv
      exact ⟨hd, hw, rfl, ha, rfl, hwide⟩
  | add d a =>
    obtain hsum | hsum := le_or_gt ((s.reg d).toNat + (s.reg a).toNat) 0xFFFF
    · obtain ⟨v, -, hx⟩ := exec_add_of_sum_le hsum
      rw [hx] at h; cases h; cases ht
    · rw [exec_add_of_overflow hsum] at h; cases h; cases ht
      exact ⟨rfl, rfl, rfl, hsum⟩
  | xor d a => rw [exec_xor] at h; cases h; cases ht

/-- R106: an instruction reports an error exactly in the rule's circumstances. -/
theorem exec_err_iff_errorDue {i : Instr} {s t : State} {e : ErrorKind} (h : exec i s = .next t) :
    t.rsp = some (.err e) ↔ errorDue i s e := by
  refine ⟨errorDue_of_exec h, fun hdue => ?_⟩
  rw [exec_of_errorDue hdue] at h; cases h
  rfl

/-- Settles O15: the registers that give the payload are unchanged, so they still hold it. -/
theorem addOverflowReportsItsOperands : Obligations.AddOverflowReportsItsOperands :=
  fun s _ _ hsum => ⟨_, exec_add_of_overflow hsum, commitsNothing_respond s _, rfl, rfl, rfl⟩

/-- Settles O19: the three circumstances are those of `errorDue`. -/
theorem memoryErrorsExactlyWhenTheRulesSay : Obligations.MemoryErrorsExactlyWhenTheRulesSay :=
  fun _ _ _ h => ⟨fun _ => exec_err_iff_errorDue h, fun _ => exec_err_iff_errorDue h,
    fun _ => exec_err_iff_errorDue h, fun _ => ⟨rfl, rfl, rfl, rfl, rfl, rfl⟩⟩

/-! ### A word is answered, an illegal configuration is refused (R114) -/

/-- R71: every transaction ends with a response, and after an error it has committed nothing. -/
theorem TransactionEnds.answers {s t : State} (h : TransactionEnds s t) :
    t.rsp = some .ok ∨ ∃ e, t.rsp = some (.err e) ∧ CommitsNothing s t e := by
  cases h with
  | error => exact .inr ⟨_, rfl, commitsNothing_respond s _⟩
  | register | memory => exact .inl rfl

/-- Settles O35, by how the word's transaction ends. -/
theorem everyTransactionAnswers : Obligations.EveryTransactionAnswers := by
  intro s w rest hs hh
  obtain ⟨t, ht⟩ := process_next w { s with host := rest }
  have hends := process_ends ht
  have hstep : step s = .next t := (step_of_word hs.legal hs.idle hh).trans ht
  have hready : t.reqReady = true := decide_eq_true (hends.sound hs.legal hs.memory).idle
  obtain hok | ⟨e, he, hc⟩ := hends.answers
  · exact ⟨t, .ok, hstep, hok, hready, hends.host, .inl rfl⟩
  · exact ⟨t, .err e, hstep, he, hready, hends.host, .inr ⟨e, rfl, hc.registers, hc.memory⟩⟩

/-- R6: the illegal configurations. -/
theorem legalConfig_eq_false_iff {c : Config} :
    legalConfig c = false ↔
      (c.memOrg = .sparse ∧ c.slotWidth = .bits8) ∨
        (c.memOrg = .dense ∧ (c.memSlots < 1 ∨ 65536 < c.memSlots)) := by
  cases ho : c.memOrg with
  | dense => simp [legalConfig, ho, imp_iff_not_or]
  | sparse => cases hw : c.slotWidth <;> simp [legalConfig, ho, hw]

theorem construct_of_illegal {c : Config} (hc : legalConfig c = false) (s : State) :
    construct c s = .refused .illegalConfiguration := by
  simp [construct, hc]

theorem step_of_illegal {s : State} (hc : legalConfig s.config = false) :
    step s = .refused .illegalConfiguration := by
  simp [step, advance, hc]

/-- R114, R118: `rst` between transactions or in flight. -/
theorem step_of_constructs_illegal {s : State} {mv : HostMove} {c : Config} {rest : List HostMove}
    (hs : s.Sound) (hh : s.host = mv :: rest) (hmv : mv.constructs c) (hc : legalConfig c = false) :
    step s = .refused .illegalConfiguration := by
  unfold step
  rw [advance_eq hs.legal hs.idle, hh]
  obtain rfl | ⟨w, rfl⟩ := hmv
  · exact construct_of_illegal hc _
  · exact construct_of_illegal hc _

/-- Settles O36: by the move for a construction, by the first check of a step for a state. -/
theorem illegalConfigurationIsRefused : Obligations.IllegalConfigurationIsRefused := by
  intro c hbounds
  have hc : legalConfig c = false := legalConfig_eq_false_iff.mpr hbounds
  refine ⟨fun s w rest hs hh => ?_, fun s hsc => step_of_illegal (hsc ▸ hc)⟩
  obtain hh | hh := hh
  · exact step_of_constructs_illegal hs hh (.inl rfl) hc
  · exact step_of_constructs_illegal hs hh (.inr ⟨w, rfl⟩) hc

/-! ### What the host sees (R71, R112) -/

/-- R71: the lines of a held response. -/
theorem State.response_lines {s : State} {r : Response} (h : s.rsp = some r) :
    s.rspErr = some (responseErr r) ∧ s.rspCode = some (responseCode r) ∧
      s.rspInfo0 = some (responseInfo0 r) ∧ s.rspInfo1 = some (responseInfo1 r) := by
  simp [State.rspErr, State.rspCode, State.rspInfo0, State.rspInfo1, h]

/-- Settles O43, by the response's row of R96's table. -/
theorem responseSignalsOfEachOutcome : Obligations.ResponseSignalsOfEachOutcome := by
  refine fun s => ⟨State.response_lines, fun e he => ?_⟩
  obtain ⟨herr, hcode, hinfo0, hinfo1⟩ := State.response_lines he
  refine ⟨herr, ?_⟩
  cases e with
  | stackOverflow => exact hcode
  | _ => exact ⟨hcode, hinfo0, hinfo1⟩

theorem State.reqReady_eq_true {s : State} : s.reqReady = true ↔ s.phase = .idle := decide_eq_true_iff

/-- R37: in DENSE there is no slot at and above MEM_SLOTS. -/
theorem State.slot_dense_of_le {s : State} {a : Word} (hd : s.config.memOrg = .dense)
    (ha : s.config.memSlots ≤ a.toNat) : s.slot a = none := by
  simp [State.slot, addressCheck_dense_of_le hd ha]

theorem slotPart_dense {c : Config} (hd : c.memOrg = .dense) (v : Word) :
    slotPart c v = (v.setWidth (slotBits c.slotWidth)).setWidth 16 := by
  simp only [slotPart, hd]

/-- R112: while Idle the memory lines show the slot. -/
theorem State.inspMem_of_slot {s : State} {a : Word} {x : Option Word} (hp : s.phase = .idle)
    (h : s.slot a = x) :
    s.inspMemPresent a = some x.isSome ∧ s.inspMemData a = some (x.getD 0) := by
  simp [State.inspMemPresent, State.inspMemData, hp, h]

/-- Settles O44: while Idle by the slot in each memory organisation, in flight by the phase. -/
theorem inspectionPortShowsTheState : Obligations.InspectionPortShowsTheState := by
  refine fun s sel a => ⟨fun hready => ?_, fun hbusy => ?_⟩
  · have hp := State.reqReady_eq_true.mp hready
    refine ⟨if_pos hp, fun hd ha => ?_, fun hd ha => ?_, fun hs v hv => ?_, fun hs hnone => ?_⟩
    · exact State.inspMem_of_slot hp ((State.slot_dense hd ha).trans (congrArg some (slotPart_dense hd _)))
    · exact State.inspMem_of_slot hp (State.slot_dense_of_le hd ha)
    · exact State.inspMem_of_slot hp ((State.slot_sparse hs a).trans hv)
    · exact State.inspMem_of_slot hp ((State.slot_sparse hs a).trans hnone)
  · have hp : s.phase ≠ .idle := of_decide_eq_false hbusy
    exact ⟨if_neg hp, if_neg hp, if_neg hp⟩

end Sys2Proof.Machine
end

section
/-!
SUPPORT. The reset and hazards family (70_reset_and_hazards.md): what a transaction depends on (R126),
construction and the moves that make it (R115, R118), waiting in Idle (R117), and a step asked for in
flight (R121).
-/

namespace Sys2Proof.Machine

/-! ### What a transaction depends on (R126) -/

/-- R71: a transaction begins at the accepted state, so it sees neither the phase nor a response held. -/
theorem process_congr_accept {s s' : State} (w : Word) (h : s.accept = s'.accept) :
    process w s = process w s' := by
  unfold process
  rw [h]

/-- R126: from states with the same configuration, registers and memory, a word's transaction ends in
the same state but for the host's further moves. -/
theorem process_eq_set_host {w : Word} {s s' t : State} (hc : s.config = s'.config)
    (hr : s.regs = s'.regs) (hm : s.mem = s'.mem) (h : process w s = .next t) :
    process w s' = .next { t with host := s'.host } := by
  have haccept : s'.accept = State.accept { s with host := s'.host } := by
    simp only [State.accept, hc, hr, hm]
  exact (process_congr_accept w haccept).trans (process_set_host s'.host h)

/-- Settles O27: the second transaction's end is the first's, with the second host's moves. -/
theorem resultDependsOnConfigStateAndWord : Obligations.ResultDependsOnConfigStateAndWord := by
  intro w s s' t t' hc hr hm ht ht'
  rw [process_eq_set_host hc hr hm ht] at ht'
  cases ht'
  exact ⟨rfl, rfl, rfl, rfl⟩

/-! ### The state after construction (R115, R116, R118) -/

theorem State.sound_resetWith {c : Config} (hc : legalConfig c = true) : (State.resetWith c).Sound :=
  sound_construct hc []

/-- Settles O33: the reset state is a construction with the default configuration, which is legal. -/
theorem resetIsSound : Obligations.ResetIsSound :=
  ⟨fun _ hc => State.sound_resetWith hc, State.sound_resetWith (by decide)⟩

/-- R19: the register file after construction. -/
theorem State.reg_resetWith_eq (c : Config) : (State.resetWith c).reg = resetReg c.regReset :=
  funext fun r => State.reg_resetWith r c

/-- Settles O38: the registers by reset policy, the slots by memory organisation. -/
theorem stateAfterReset : Obligations.StateAfterReset := by
  refine fun c _ => ⟨fun hz r => ?_, fun hx => ?_, fun hd _ ha => State.slot_resetWith_dense hd ha,
    fun hs a => State.slot_resetWith_sparse hs a, rfl, rfl, rfl⟩
  · rw [State.reg_resetWith_eq, hz]
    rfl
  · rw [State.reg_resetWith_eq, hx]
    decide

theorem construct_of_legal {c : Config} (hc : legalConfig c = true) (s : State) :
    construct c s = .next { State.resetWith c with host := s.host } :=
  if_pos hc

/-- R115, R118: `rst` constructs a fresh engine, between transactions or in flight. -/
theorem step_of_constructs_legal {s : State} {mv : HostMove} {c : Config} {rest : List HostMove}
    (hs : s.Sound) (hh : s.host = mv :: rest) (hmv : mv.constructs c) (hc : legalConfig c = true) :
    step s = .next { State.resetWith c with host := rest } := by
  unfold step
  rw [advance_eq hs.legal hs.idle, hh]
  obtain rfl | ⟨w, rfl⟩ := hmv
  · exact construct_of_legal hc _
  · exact construct_of_legal hc _

/-- Settles O39: either move that constructs leads to the reset state with the host's further moves. -/
theorem rstConstructsAFreshEngine : Obligations.RstConstructsAFreshEngine := by
  intro s c w rest hs hc hh
  have hstep : step s = .next { State.resetWith c with host := rest } := by
    obtain hh | hh := hh
    · exact step_of_constructs_legal hs hh (.inl rfl) hc
    · exact step_of_constructs_legal hs hh (.inr ⟨w, rfl⟩) hc
  exact ⟨_, hstep, rfl, rfl, fun _ => rfl, rfl, rfl, rfl⟩

/-! ### Waiting in Idle, and a step asked for in flight (R117, R121) -/

theorem step_of_no_move {s : State} (hs : s.Sound) (hh : s.host = []) : step s = .next s := by
  unfold step
  rw [advance_eq hs.legal hs.idle, hh]

/-- Settles O40: right after construction the machine is sound and its host has no move. -/
theorem waitsInIdleForTheHost : Obligations.WaitsInIdleForTheHost :=
  ⟨fun _ hs hh => step_of_no_move hs hh, fun _ hc => step_of_no_move (State.sound_resetWith hc) rfl⟩

/-- Settles O42, by the phase. -/
theorem noHostMoveInFlight : Obligations.NoHostMoveInFlight := by
  intro s hc hbusy
  have hp : s.phase ≠ .idle := of_decide_eq_false hbusy
  unfold step advance
  rw [if_pos hc]
  cases hphase : s.phase with
  | idle => exact absurd hphase hp
  | decoded | executed => rfl

end Sys2Proof.Machine
end

section
/-!
SUPPORT. The statement on the example words of 95_test_vectors.md: O1.
-/

namespace Sys2Proof

/-- Settles O1: a word that decodes has the fields of its instruction; a word that fails has fields that
pass the checks before the one its error names, and not that one. -/
theorem wordsOfTheSpecDecode : Obligations.WordsOfTheSpecDecode :=
  ⟨decode_eq_ok.mpr ⟨rfl, rfl, rfl⟩,
    decode_eq_ok.mpr ⟨rfl, rfl, rfl⟩,
    decode_eq_ok.mpr ⟨rfl, rfl, rfl⟩,
    decode_eq_ok.mpr ⟨rfl, rfl, rfl⟩,
    decode_eq_ok.mpr ⟨rfl, rfl, rfl⟩,
    decode_eq_op0OutOfRange.mpr (by decide),
    decode_eq_op1OutOfRange.mpr (by decide),
    decode_eq_op1OutOfRange.mpr (by decide),
    decode_eq_op0OutOfRange.mpr (by decide),
    decode_eq_invalidOpCode.mpr (by decide),
    decode_eq_invalidOpCode.mpr (by decide),
    decode_eq_invalidOpCode.mpr (by decide),
    decode_eq_invalidOpCode.mpr (by decide)⟩

end Sys2Proof
end
